-- ==== Sys2Proof/Word.lean ====
section
/-! DEFINITION. The two word types of the core: the byte (a field element, a stored table entry) and the command word. -/

namespace Sys2Proof

/-- A byte: a field element (00_scope.md R7: bit `i` is the coefficient of x^i; all 256 patterns are
elements) or one stored table entry (20_memory.md R41). -/
abbrev Byte := BitVec 8

/-- A command word `CMD[63:0]` (30_encoding.md R60); bit 0 is the least significant bit (00_scope.md R6). -/
abbrev Word := BitVec 64

end Sys2Proof
end

