-- ==== Sys2Proof/Config.lean ====
section
/-! DEFINITION. The constants of the hardware (00_scope.md R5, 10_state.md R23) and the model's one free value. -/

namespace Sys2Proof.Config

/-- `FIELD_SIZE`, the number of field elements (R5, R23); hardwired. -/
abbrev fieldSize : Nat := 256

/-- `POLY`, the generating polynomial byte the INIT sequence gives the table generator (R5, R23); hardwired.
The full modulus is x^8 + x^4 + x^3 + x^2 + 1 (R9). -/
abbrev poly : Byte := 29#8

/-- `GROUP_ORDER`, the order of the multiplicative group (R5). -/
abbrev groupOrder : Nat := 255

/-- `LOG_LEN`, the entries of the discrete-log table (R5, R24). -/
abbrev logLen : Nat := 256

/-- `LOG_MAX`, the largest logarithm (R5). -/
abbrev logMax : Nat := 254

/-- `LOG_UNDEF`, the stored form of the sentinel "undefined" (R5, R24; 92_eei_decisions.md D8). -/
abbrev logUndef : Byte := 0xFF#8

/-- `EXP_OFFSET`, the distance between the two copies of an element in the exponent table
(R5; 90_conflicts.md C1 corrects the document's 254). -/
abbrev expOffset : Nat := 255

/-- `EXP_LEN`, the entries of the exponent table (R5, R25; 90_conflicts.md C1 corrects the document's 508). -/
abbrev expLen : Nat := 510

/-- `EXP_MAX_USED`, the largest exponent-table index any field operation reads (R5). -/
abbrev expMaxUsed : Nat := 508

/-- `MUL_ROWS` and `MUL_COLS` (R5, R26). -/
abbrev mulRows : Nat := 256
abbrev mulCols : Nat := 256

/-- `NW`, the width of the operand field `N` (R5; 92_eei_decisions.md D9). -/
abbrev nw : Nat := 32

/-- `CMD_W` and `RSP_W`, the widths of a command word and of a response word (R5). -/
abbrev cmdW : Nat := 64
abbrev rspW : Nat := 12

/-- `MODULUS(p)`, the 9-bit value `{1, p[7:0]}` (00_scope.md R9). -/
def modulus (p : Byte) : BitVec 9 := 1#1 ++ p

/-- FREE VALUE (DESIGN CHOICE, notes/assumptions/3.md): the byte the multiplication-table builder writes for a
pair whose product the tables it reads do not give (an entry that nothing has written, or `UNDEF` at a nonzero
element). 43_mult_table_builder.md R140 has "no failure mode", and no table pair the generator returns comes
here. It has no body: nothing can be proved of its value. -/
opaque unstatedProduct : Byte → Byte → Byte

end Sys2Proof.Config
end

