-- ==== Sys2Proof/Syntax.lean ====
section
/-! DEFINITION. The ten commands, one constructor per row of spec/opcode_table.json (30_encoding.md R63). -/

namespace Sys2Proof

/-- A command with the operands it uses (30_encoding.md R63). `A` and `B` are bytes. `N` is an unsigned
integer used as it stands (R62), so a natural number: EXP is defined for every natural exponent
(00_scope.md R5, 42_field_ops.md R115); the port carries those below 2^32 (`Instr.wf`). -/
inductive Instr where
  /-- `ADD a, b` (R111). -/
  | add (a b : Byte)
  /-- `SUB a, b` (R112). -/
  | sub (a b : Byte)
  /-- `MUL a, b` (R113). -/
  | mul (a b : Byte)
  /-- `DIV a, b`: dividend `a`, divisor `b` (R114). -/
  | div (a b : Byte)
  /-- `EXP a, n` (R115). -/
  | exp (a : Byte) (n : Nat)
  /-- `LOGRD a` (R101). -/
  | logrd (a : Byte)
  /-- `EXPRD k` (R103). -/
  | exprd (k : Nat)
  /-- `MULRD a, b`: row `a`, column `b` (R143). -/
  | mulrd (a b : Byte)
  /-- `INIT` (R87). -/
  | init
  /-- `POLYCHK p` (R88). -/
  | polychk (p : Byte)
  deriving DecidableEq, Repr

/-- The commands that read a table: the six that answer `INVALID_POLYNOMIAL` in state `FAILED`
(60_exceptions.md R165 point 2, R168). -/
def Instr.readsTables : Instr → Bool
  | .add _ _ => false
  | .sub _ _ => false
  | .mul _ _ => true
  | .div _ _ => true
  | .exp _ _ => true
  | .logrd _ => true
  | .exprd _ => true
  | .mulrd _ _ => true
  | .init => false
  | .polychk _ => false

end Sys2Proof
end

