-- ==== Sys2Proof/WellFormed.lean ====
section
/-! DEFINITION. Which commands a command word can carry: the integer operand fits the field `N`. -/

namespace Sys2Proof

/-- The integer operand `N` is an unsigned 32-bit integer, 0 to 4294967295 (30_encoding.md R61, R62). -/
def Instr.nFits (n : Nat) : Bool := decide (n < 2 ^ Config.nw)

/-- A command is well-formed when its operands fit the fields of the command word (30_encoding.md R61). The
byte operands always do (00_scope.md R7). -/
def Instr.wf : Instr → Bool
  | .add _ _ => true
  | .sub _ _ => true
  | .mul _ _ => true
  | .div _ _ => true
  | .exp _ n => Instr.nFits n
  | .logrd _ => true
  | .exprd k => Instr.nFits k
  | .mulrd _ _ => true
  | .init => true
  | .polychk _ => true

end Sys2Proof
end

