-- ==== Sys2Proof/Decode.lean ====
section
/-! DEFINITION. Decoding of command words, total on all 2^64 of them (30_encoding.md R70), and the encoder. -/

namespace Sys2Proof

/-! ## The fields of a command word (30_encoding.md R61) -/

/-- `OP`, bits 63:60. -/
def opField (w : Word) : BitVec 4 := w.extractLsb' 60 4

/-- `RSV`, bits 59:48. -/
def rsvField (w : Word) : BitVec 12 := w.extractLsb' 48 12

/-- `A`, bits 47:40. -/
def aField (w : Word) : Byte := w.extractLsb' 40 8

/-- `B`, bits 39:32. -/
def bField (w : Word) : Byte := w.extractLsb' 32 8

/-- `N`, bits 31:0, read as an unsigned integer (R62). -/
def nField (w : Word) : Nat := (w.extractLsb' 0 32).toNat

/-- Why a word names no command (30_encoding.md R64): its operation code is 0xA to 0xF, or `RSV` is not zero. -/
inductive DecodeError where
  | reservedOpcode (op : BitVec 4)
  | reservedField (rsv : BitVec 12)
  deriving DecidableEq, Repr

/-- The opcode map (30_encoding.md R63). -/
def decodeOp (w : Word) : Except DecodeError Instr :=
  match (opField w).toNat with
  | 0x0 => .ok (.add (aField w) (bField w))
  | 0x1 => .ok (.sub (aField w) (bField w))
  | 0x2 => .ok (.mul (aField w) (bField w))
  | 0x3 => .ok (.div (aField w) (bField w))
  | 0x4 => .ok (.exp (aField w) (nField w))
  | 0x5 => .ok (.logrd (aField w))
  | 0x6 => .ok (.exprd (nField w))
  | 0x7 => .ok (.mulrd (aField w) (bField w))
  | 0x8 => .ok .init
  | 0x9 => .ok (.polychk (aField w))
  | _ => .error (.reservedOpcode (opField w))

/-- Decoding (30_encoding.md R70): `RSV` is tested first, then `OP` selects the command. A field the command
does not use is ignored. -/
def decode (w : Word) : Except DecodeError Instr :=
  if rsvField w = 0#12 then decodeOp w else .error (.reservedField (rsvField w))

/-! ## The encoder -/

/-- The word with the given fields and `RSV` = 0 (30_encoding.md R61). -/
def pack (op : BitVec 4) (a b : Byte) (n : BitVec 32) : Word := op ++ 0#12 ++ a ++ b ++ n

/-- The operation code of a command (30_encoding.md R63). -/
def Instr.opcode : Instr → BitVec 4
  | .add _ _ => 0x0#4
  | .sub _ _ => 0x1#4
  | .mul _ _ => 0x2#4
  | .div _ _ => 0x3#4
  | .exp _ _ => 0x4#4
  | .logrd _ => 0x5#4
  | .exprd _ => 0x6#4
  | .mulrd _ _ => 0x7#4
  | .init => 0x8#4
  | .polychk _ => 0x9#4

/-- The canonical encoding: every unused field is zero (30_encoding.md R61, R70). -/
def encode (i : Instr) : Word :=
  match i with
  | .add a b => pack i.opcode a b 0#32
  | .sub a b => pack i.opcode a b 0#32
  | .mul a b => pack i.opcode a b 0#32
  | .div a b => pack i.opcode a b 0#32
  | .exp a n => pack i.opcode a 0#8 (BitVec.ofNat 32 n)
  | .logrd a => pack i.opcode a 0#8 0#32
  | .exprd k => pack i.opcode 0#8 0#8 (BitVec.ofNat 32 k)
  | .mulrd a b => pack i.opcode a b 0#32
  | .init => pack i.opcode 0#8 0#8 0#32
  | .polychk p => pack i.opcode p 0#8 0#32

/-- The bits of a word its command uses: `OP` and `RSV` (the mask of 30_encoding.md R63) and the operand fields
in the column "operands used" of that table. -/
def Instr.usedBits : Instr → Word
  | .add _ _ => 0xFFFFFFFF00000000#64
  | .sub _ _ => 0xFFFFFFFF00000000#64
  | .mul _ _ => 0xFFFFFFFF00000000#64
  | .div _ _ => 0xFFFFFFFF00000000#64
  | .exp _ _ => 0xFFFFFF00FFFFFFFF#64
  | .logrd _ => 0xFFFFFF0000000000#64
  | .exprd _ => 0xFFFF0000FFFFFFFF#64
  | .mulrd _ _ => 0xFFFFFFFF00000000#64
  | .init => 0xFFFF000000000000#64
  | .polychk _ => 0xFFFFFF0000000000#64

/-! ## Table words -/

/-- The command word whose bits spec/opcode_table.json numbers as `w`: every bit above `nbits` is 0. -/
def tableWord (nbits w : Nat) : Word := BitVec.ofNat 64 (w % 2 ^ nbits)

/-- What the decoder reads from such a word (a command word has 64 bits, never more: 30_encoding.md R60). -/
def decodeTableWord (nbits w : Nat) : Option Instr :=
  if nbits ≤ Config.cmdW then (decode (tableWord nbits w)).toOption else none

end Sys2Proof
end

