-- ==== Sys2Proof/Machine/State.lean ====
section
/-! DEFINITION. The state of the core as plain data (10_state.md R31), the port's pins (92_eei_decisions.md D2), the
table memories in canonical form, and the reasons a step can stop. -/

namespace Sys2Proof.Machine

/-! ## Table memories (20_memory.md R40) -/

/-- The three address spaces (20_memory.md R40). -/
inductive Space where
  | log
  | exp
  | mulTab
  deriving DecidableEq, Repr

/-- The number of entries of a space (20_memory.md R40): indices below it exist, no other does. -/
def Space.size : Space → Nat
  | .log => Config.logLen
  | .exp => Config.expLen
  | .mulTab => Config.mulRows * Config.mulCols

/-- A table memory: the entries that have been written, index and byte, in rising order of index. -/
abbrev Memory := List Host.Cell

/-- The canonical form: indices strictly rise. No entry equals what an unlisted index reads as, because an
unlisted index reads as no value (`Memory.unlisted`). -/
abbrev Memory.wf (m : Memory) : Prop := (m.map Prod.fst).Pairwise (· < ·)

/-! ## Outcomes of a command (30_encoding.md R65, R66) -/

/-- The error kinds (60_exceptions.md R160, R161, R162). -/
inductive ErrorKind where
  | invalidArgument
  | invalidPolynomial
  | illegalCommand
  deriving DecidableEq, Repr

/-- A response: a value or an error (00_scope.md R10, 30_encoding.md R65). There is no data byte in the error
case (93_implementation_defined.md U14); the pins carry 0x00 then (`Response.toWord`). -/
inductive Response where
  | ok (data : Byte)
  | error (kind : ErrorKind)
  deriving DecidableEq, Repr

/-! ## State -/

/-- `INIT_STATE` (10_state.md R23, R27). -/
inductive InitState where
  /-- The tables hold no defined content; no command is accepted. -/
  | unbuilt
  /-- The tables are completely built from `POLY`. -/
  | ready
  /-- The table generator raised InvalidPolynomial on `POLY` (60_exceptions.md R168). -/
  | failed
  deriving DecidableEq, Repr

/-- The state: the tuple of 10_state.md R31 and the command port (30_encoding.md R69, 92_eei_decisions.md D2).
The constants `FIELD_SIZE` and `POLY` are in Config; the generator's scratch is none (R28). -/
structure State where
  /-- `INIT_STATE` (R27). -/
  initState : InitState
  /-- `LOG`, the discrete-log table, one stored byte an entry (R24). -/
  logTab : Memory
  /-- `EXP`, the exponent table (R25). -/
  expTab : Memory
  /-- `MULTAB`, the multiplication table, entry `[a][b]` at index `a*256 + b` (R26, R144). -/
  mulTab : Memory
  /-- The command words the requesters present, oldest first, none accepted yet: `req_valid` says that there is
  one and `req_cmd` is the first (D2). -/
  requests : List Word
  /-- The response the core presents and no requester has taken: `rsp_valid` and `rsp` (D2). -/
  rsp : Option Response
  /-- The input pin `rsp_ready`: the requester takes a response that is presented (D2). -/
  rspReady : Bool
  /-- The responses the requesters have taken, oldest first (the model's own field: it is outside the core). -/
  delivered : List Response
  deriving DecidableEq, Repr

/-- The three tables by name (20_memory.md R40). -/
def State.table (s : State) : Space → Memory
  | .log => s.logTab
  | .exp => s.expTab
  | .mulTab => s.mulTab

/-- The state right after reset (10_state.md R30): `UNBUILT`, table contents unspecified (no entry is listed), no
operand or response held. The pins' values are the model's choice (notes/assumptions/5.md). -/
def State.reset : State where
  initState := .unbuilt
  logTab := []
  expTab := []
  mulTab := []
  requests := []
  rsp := none
  rspReady := true
  delivered := []

/-! ## Stops -/

/-- Faults: the machine stops. -/
inductive Fault where
  /-- Raised by `memRead` when it reads an entry that nothing has written: its content is unspecified
  (10_state.md R30, 93_implementation_defined.md U9). Safe: the model stops where the hardware reads some byte, and
  no run comes here, since no command is accepted before the tables are built (70_reset_and_hazards.md R180). -/
  | unwrittenEntry (space : Space) (index : Nat)
  /-- Raised by `memRead` on an index that does not exist (20_memory.md R42, R44). Safe: no command reaches it
  (EXPRD answers InvalidArgument first, R103; the other indices are in range by construction). -/
  | noSuchEntry (space : Space) (index : Nat)
  deriving DecidableEq, Repr

/-- Refusals: the model gives no meaning. -/
inductive Refusal where
  /-- Raised by an arm of `exec` for a command that has no meaning yet. Safe. (No arm does.) -/
  | notModelled (mnemonic : String)
  /-- Raised by MUL, DIV and EXP when `LOG` holds `UNDEF` at a nonzero element, so that no logarithm can be used
  (93_implementation_defined.md U1: "refuse"). Safe: never so in a table the generator returns (R83). -/
  | undefinedLogarithm (element : Byte)
  deriving DecidableEq, Repr

end Sys2Proof.Machine
end

