-- ==== Sys2Proof/Machine/Ops.lean ====
section
/-! DEFINITION. The shared operations: reading and writing a table memory, reading an entry of a table, updating
the state, and ending a command with a response. -/

namespace Sys2Proof.Machine

/-! ## Table memories -/

/-- What an index that nothing has written reads as: no value (10_state.md R30, 92_eei_decisions.md D18: a model must
not assume zero). -/
def Memory.unlisted (_index : Nat) : Option Byte := none

/-- The entry at an index. -/
def Memory.read : Memory → Nat → Option Byte
  | [], i => Memory.unlisted i
  | (k, v) :: rest, i => if k = i then some v else Memory.read rest i

/-- `T[i] <- v` (00_scope.md R10). -/
def Memory.write : Memory → Nat → Byte → Memory
  | [], i, v => [(i, v)]
  | (k, w) :: rest, i, v =>
    if i < k then (i, v) :: (k, w) :: rest
    else if i = k then (i, v) :: rest
    else (k, w) :: Memory.write rest i v

/-- The entries `start`, `start + 1`, …, `n` of them, each holding `f` of its index. -/
def Memory.tabulateFrom (f : Nat → Byte) : Nat → Nat → Memory
  | _, 0 => []
  | start, n + 1 => (start, f start) :: Memory.tabulateFrom f (start + 1) n

/-- The table of `n` entries whose entry `i` is `f i`: what writing all of them leaves, in any order. -/
def Memory.tabulate (f : Nat → Byte) (n : Nat) : Memory := Memory.tabulateFrom f 0 n

/-! ## Updates of the state -/

def State.setInitState (s : State) (v : InitState) : State := { s with initState := v }
def State.setLogTab (s : State) (m : Memory) : State := { s with logTab := m }
def State.setExpTab (s : State) (m : Memory) : State := { s with expTab := m }
def State.setMulTab (s : State) (m : Memory) : State := { s with mulTab := m }
def State.setRequests (s : State) (ws : List Word) : State := { s with requests := ws }
def State.setRsp (s : State) (r : Option Response) : State := { s with rsp := r }
def State.setRspReady (s : State) (v : Bool) : State := { s with rspReady := v }
def State.setDelivered (s : State) (rs : List Response) : State := { s with delivered := rs }

/-! ## Reading an entry -/

/-- What a command's own computation gives: a value, or the reason it stops. -/
abbrev Access (α : Type) := Host.Outcome α Fault Refusal

/-- Go on with the value, if there is one. -/
def andThen {α β : Type} (x : Access α) (f : α → Access β) : Access β :=
  match x with
  | .next a => f a
  | .fault r => .fault r
  | .refused r => .refused r

/-- `MemRead(space, i)` (00_scope.md R10, 20_memory.md R43): one entry, read whole, with no side effect. -/
def memRead (space : Space) (i : Nat) (s : State) : Access Byte :=
  if i < space.size then
    match (s.table space).read i with
    | some v => .next v
    | none => .fault (.unwrittenEntry space i)
  else .fault (.noSuchEntry space i)

/-! ## Ending a command -/

/-- `respond(OK, d)` and `raise …` (00_scope.md R10): the command ends, the port presents its response, and no other
state changes (60_exceptions.md R166). -/
def respond (r : Response) (s : State) : Access State := .next (s.setRsp (some r))

/-- End a command with the response its computation gives. -/
def answer (x : Access Response) (s : State) : Access State := andThen x fun r => respond r s

/-- A command that reads a table: in state `FAILED` it raises InvalidPolynomial before any other test
(60_exceptions.md R165, R168). -/
def withTables (s : State) (x : Access Response) : Access State :=
  match s.initState with
  | .failed => respond (.error .invalidPolynomial) s
  | .unbuilt => answer x s
  | .ready => answer x s

end Sys2Proof.Machine
end

