-- ==== Sys2Proof/Machine/Operands.lean ====
section
/-! DEFINITION. The operand forms and the integer arithmetic inside the operations: the stored form of a log entry, the
doubling step, and the index each operation computes (42_field_ops.md R116: all exact, nothing wraps). -/

namespace Sys2Proof.Machine

/-- An entry of `LOG`: `UNDEF` or a logarithm (10_state.md R24). -/
inductive LogEntry where
  | undef
  | log (l : Nat)
  deriving DecidableEq, Repr

/-- The stored byte of a log entry: the logarithm as an unsigned byte, or 0xFF for `UNDEF` (10_state.md R24). -/
def LogEntry.toByte : LogEntry → Byte
  | .undef => Config.logUndef
  | .log l => BitVec.ofNat 8 l

/-- The log entry a stored byte stands for (10_state.md R24); a logarithm read back is at most 254. -/
def LogEntry.ofByte (b : Byte) : LogEntry :=
  if b = Config.logUndef then .undef else .log b.toNat

/-- The doubling step `double(b, p)` (40_table_generator.md R81): shift left by one bit into 9 bits; if bit 8 is set,
drop it and reduce by exclusive or with the polynomial byte. -/
def double (b p : Byte) : Byte :=
  let t : BitVec 9 := b.zeroExtend 9 <<< 1
  if 256 ≤ t.toNat then BitVec.ofNat 8 (t.toNat - 256) ^^^ p else BitVec.ofNat 8 t.toNat

/-- MUL's index, the sum of two logarithms, not reduced (42_field_ops.md R113, R116). -/
def sumIndex (la lb : Nat) : Nat := la + lb

/-- DIV's index, the difference of two logarithms, with 255 added once if it is negative (42_field_ops.md R114). -/
def diffIndex (la lb : Nat) : Nat :=
  let d : Int := (la : Int) - (lb : Int)
  if d < 0 then (d + Config.groupOrder).toNat else d.toNat

/-- EXP's index, the exact product reduced modulo 255 (42_field_ops.md R115). -/
def powIndex (l n : Nat) : Nat := l * n % Config.groupOrder

/-- The linear index of `MULTAB[a][b]` (43_mult_table_builder.md R144). -/
def mulIndex (a b : Byte) : Nat := a.toNat * Config.mulCols + b.toNat

end Sys2Proof.Machine
end

