-- ==== Sys2Proof/Machine/TableLookups.lean ====
section
/-! DEFINITION. The units gf2_8_log_lookup and gf2_8_exp_lookup, and their commands LOGRD and EXPRD
(41_table_lookups.md). -/

namespace Sys2Proof.Machine

/-- `log_lookup(a)` (R100): entry `a` of `LOG`. -/
def logLookup (a : Byte) (s : State) : Access LogEntry :=
  andThen (memRead .log a.toNat s) fun v => .next (LogEntry.ofByte v)

/-- `exp_lookup(k)` (R102): entry `k` of `EXP`. -/
def expLookup (k : Nat) (s : State) : Access Byte := memRead .exp k s

/-- LOGRD (R101): the stored byte of the entry, 0xFF for `UNDEF`, which is no error. -/
def execLogrd (a : Byte) (s : State) : Access State :=
  withTables s (andThen (logLookup a s) fun e => .next (.ok e.toByte))

/-- EXPRD (R103): an index of 510 or more raises InvalidArgument and reads nothing. -/
def execExprd (k : Nat) (s : State) : Access State :=
  withTables s
    (if Config.expLen ≤ k then .next (.error .invalidArgument)
     else andThen (expLookup k s) fun d => .next (.ok d))

end Sys2Proof.Machine
end

