-- ==== Sys2Proof/Machine/FieldOps.lean ====
section
/-! DEFINITION. The unit gf2_8_field_ops: the functions multiply, divide and power through the tables, the table-free
product polymul, and the commands ADD, SUB, MUL, DIV, EXP (42_field_ops.md). -/

namespace Sys2Proof.Machine

/-- The logarithm of a nonzero element, for use in arithmetic. `UNDEF` is refused
(93_implementation_defined.md U1); the zero tests of R113 to R115 come first, so it is never met (R185). -/
def logarithm (a : Byte) (s : State) : Access Nat :=
  andThen (logLookup a s) fun e =>
    match e with
    | .log l => .next l
    | .undef => .refused (.undefinedLogarithm a)

/-- `multiply(a, b)` (R113): the zero test first, then the sum of the logarithms indexes `EXP`. -/
def multiply (a b : Byte) (s : State) : Access Byte :=
  if a = 0#8 ∨ b = 0#8 then .next 0#8
  else
    andThen (logarithm a s) fun la =>
      andThen (logarithm b s) fun lb => expLookup (sumIndex la lb) s

/-- `divide(a, b)` (R114): the divisor test first, for every dividend (90_conflicts.md C2), then the zero dividend. -/
def divide (a b : Byte) (s : State) : Access Response :=
  if b = 0#8 then .next (.error .invalidArgument)
  else if a = 0#8 then .next (.ok 0#8)
  else
    andThen (logarithm a s) fun la =>
      andThen (logarithm b s) fun lb =>
        andThen (expLookup (diffIndex la lb) s) fun d => .next (.ok d)

/-- `power(a, n)` (R115), for every natural `n`: 1 if `n` is 0, even when `a` is; then 0 if `a` is 0. -/
def power (a : Byte) (n : Nat) (s : State) : Access Byte :=
  if n = 0 then .next 1#8
  else if a = 0#8 then .next 0#8
  else andThen (logarithm a s) fun l => expLookup (powIndex l n) s

/-- The carry-less product of R122, 15 bits: the first loop of `polymul`. -/
def clmul (a b : Byte) : BitVec 15 :=
  (List.range 8).foldl
    (fun r i => if b.getLsbD i then r ^^^ (a.zeroExtend 15 <<< i) else r) 0#15

/-- The reduction of a 15-bit polynomial modulo 0x11D (R122, R9): the second loop of `polymul`. -/
def polyReduce (r : BitVec 15) : Byte :=
  ([14, 13, 12, 11, 10, 9, 8].foldl
    (fun r i => if r.getLsbD i then r ^^^ ((Config.modulus Config.poly).zeroExtend 15 <<< (i - 8)) else r)
    r).setWidth 8

/-- `polymul(a, b)` (R122): the product that does not go through the tables. No command computes it; the spec gives it
as the meaning the tables must agree with. -/
def polymul (a b : Byte) : Byte := polyReduce (clmul a b)

/-- ADD (R111): bitwise exclusive or; reads no table. -/
def execAdd (a b : Byte) (s : State) : Access State := respond (.ok (a ^^^ b)) s

/-- SUB (R112): the same function as ADD. -/
def execSub (a b : Byte) (s : State) : Access State := respond (.ok (a ^^^ b)) s

/-- MUL (R113). -/
def execMul (a b : Byte) (s : State) : Access State :=
  withTables s (andThen (multiply a b s) fun d => .next (.ok d))

/-- DIV (R114). -/
def execDiv (a b : Byte) (s : State) : Access State := withTables s (divide a b s)

/-- EXP (R115). -/
def execExp (a : Byte) (n : Nat) (s : State) : Access State :=
  withTables s (andThen (power a n s) fun d => .next (.ok d))

end Sys2Proof.Machine
end

