-- ==== Sys2Proof/Machine/MultTable.lean ====
section
/-! DEFINITION. The unit gf2_8_mult_table_builder and its command MULRD (43_mult_table_builder.md). -/

namespace Sys2Proof.Machine

/-- The byte the builder stores for a pair: `multiply(a, b)` (R140). Where the tables give no product, which no table
pair the generator returns does, the spec states no byte and the value is free (notes/assumptions/3.md). -/
def productByte (a b : Byte) (s : State) : Byte :=
  match multiply a b s with
  | .next d => d
  | .fault _ => Config.unstatedProduct a b
  | .refused _ => Config.unstatedProduct a b

/-- `generateMultiplicationTable()` (R140): all 65536 products, read from the `LOG` and `EXP` of the state, entry
`[a][b]` at index `a*256 + b` (R144). -/
def generateMultiplicationTable (s : State) : Memory :=
  Memory.tabulate
    (fun i => productByte (BitVec.ofNat 8 (i / Config.mulCols)) (BitVec.ofNat 8 (i % Config.mulCols)) s)
    (Config.mulRows * Config.mulCols)

/-- MULRD (R143): reads `MULTAB` only. -/
def execMulrd (a b : Byte) (s : State) : Access State :=
  withTables s (andThen (memRead .mulTab (mulIndex a b) s) fun d => .next (.ok d))

end Sys2Proof.Machine
end

