-- ==== Sys2Proof/Machine/TableGenerator.lean ====
section
/-! DEFINITION. The unit gf2_8_table_generator, the INIT sequence, and the commands INIT and POLYCHK
(40_table_generator.md, 70_reset_and_hazards.md). -/

namespace Sys2Proof.Machine

/-- The loop of `generateLogTable` (R80): `remaining` iterations from logarithm `log` and element `b`. An entry that is
already set raises InvalidPolynomial (R82); the test looks at the entry before this iteration writes it. -/
def logLoop (p : Byte) : Nat → Nat → Byte → Memory → Except ErrorKind Memory
  | 0, _, _, result => .ok result
  | remaining + 1, log, b, result =>
    match (result.read b.toNat).map LogEntry.ofByte with
    | some .undef => logLoop p remaining (log + 1) (double b p) (result.write b.toNat (LogEntry.log log).toByte)
    | some (.log _) => .error .invalidPolynomial
    | none => .error .invalidPolynomial

/-- `generateLogTable(p)` (R80): every entry starts as `UNDEF`; 255 iterations from element 1, logarithm 0. A failed
run's table is discarded (R82). -/
def generateLogTable (p : Byte) : Except ErrorKind Memory :=
  logLoop p Config.groupOrder 0 1#8 (Memory.tabulate (fun _ => LogEntry.undef.toByte) Config.logLen)

/-- The loop of `generateExpTable` (R85): `remaining` elements from `i`. An `UNDEF` entry, which a table that
`generateLogTable` returned does not hold at a nonzero element (R83), names no position, and nothing is written. -/
def expLoop (logTable : Memory) : Nat → Nat → Memory → Memory
  | 0, _, result => result
  | remaining + 1, i, result =>
    match (logTable.read i).map LogEntry.ofByte with
    | some (.log l) =>
      expLoop logTable remaining (i + 1)
        ((result.write l (BitVec.ofNat 8 i)).write (l + Config.expOffset) (BitVec.ofNat 8 i))
    | some .undef => expLoop logTable remaining (i + 1) result
    | none => expLoop logTable remaining (i + 1) result

/-- `generateExpTable(logTable)` (R85): each nonzero element is written at its logarithm and 255 further on
(90_conflicts.md C1). -/
def generateExpTable (logTable : Memory) : Memory := expLoop logTable Config.groupOrder 1 []

/-- The INIT sequence for polynomial `p` (R87, 70_reset_and_hazards.md R181): `LOG`, then `EXP` from `LOG`, then `MULTAB`
from both; `READY`. If the generator fails, `FAILED`, and no table is written. Atomic (20_memory.md R46 d). -/
def initSequence (p : Byte) (s : State) : State :=
  match generateLogTable p with
  | .error _ => s.setInitState .failed
  | .ok t =>
    let s₁ := s.setLogTab t
    let s₂ := s₁.setExpTab (generateExpTable s₁.logTab)
    let s₃ := s₂.setMulTab (generateMultiplicationTable s₂)
    s₃.setInitState .ready

/-- What running the generator on `p` reports (R87, R88): success with data 0x00, or InvalidPolynomial. -/
def generatorResponse (p : Byte) : Response :=
  match generateLogTable p with
  | .error k => .error k
  | .ok _ => .ok 0x00#8

/-- INIT (R87): the INIT sequence on `POLY`, with a response. -/
def execInit (s : State) : Access State := respond (generatorResponse Config.poly) (initSequence Config.poly s)

/-- POLYCHK (R88): the generator on a candidate polynomial, into scratch; no table and no `INIT_STATE` changes. -/
def execPolychk (p : Byte) (s : State) : Access State := respond (generatorResponse p) s

end Sys2Proof.Machine
end

