-- ==== Sys2Proof/Machine/Dispatch.lean ====
section
/-! DEFINITION. The meaning of every command, one arm per constructor of Instr. -/

namespace Sys2Proof.Machine

def exec (i : Instr) (s : State) : Host.Outcome State Fault Refusal :=
  match i with
  | .add a b => Sys2Proof.Machine.execAdd a b s
  | .sub a b => Sys2Proof.Machine.execSub a b s
  | .mul a b => Sys2Proof.Machine.execMul a b s
  | .div a b => Sys2Proof.Machine.execDiv a b s
  | .exp a n => Sys2Proof.Machine.execExp a n s
  | .logrd a => Sys2Proof.Machine.execLogrd a s
  | .exprd k => Sys2Proof.Machine.execExprd k s
  | .mulrd a b => Sys2Proof.Machine.execMulrd a b s
  | .init => Sys2Proof.Machine.execInit s
  | .polychk p => Sys2Proof.Machine.execPolychk p s

end Sys2Proof.Machine
end

