-- ==== Sys2Proof/Machine/Flags.lean ====
section
/-! DEFINITION. The hardware has no flags (10_state.md R22); its only outcome indicator is the `STATUS` of a response.
This file holds the status codes and the response word (30_encoding.md R65, R66). -/

namespace Sys2Proof.Machine

/-- The status code of an error (30_encoding.md R66). -/
def ErrorKind.code : ErrorKind → BitVec 4
  | .invalidArgument => 0x1#4
  | .invalidPolynomial => 0x2#4
  | .illegalCommand => 0x3#4

/-- `STATUS`, bits 11:8 of the response word (30_encoding.md R65, R66). -/
def Response.status : Response → BitVec 4
  | .ok _ => 0x0#4
  | .error k => k.code

/-- What the pins `DATA`, bits 7:0, carry: the result byte, or 0x00 for an error (30_encoding.md R65). -/
def Response.dataPins : Response → Byte
  | .ok d => d
  | .error _ => 0x00#8

/-- The response word `RSP[11:0]` (30_encoding.md R65). -/
def Response.toWord (r : Response) : BitVec 12 := r.status ++ r.dataPins

end Sys2Proof.Machine
end

