-- ==== Sys2Proof/Machine/Port.lean ====
section
/-! DEFINITION. The command port (30_encoding.md R69, 92_eei_decisions.md D2): its pins, and what happens at it next. -/

namespace Sys2Proof.Machine

/-! ## The pins (92_eei_decisions.md D2) -/

/-- `req_valid`: a requester presents a command word. -/
def State.reqValid (s : State) : Bool := !s.requests.isEmpty

/-- `req_cmd`: the word presented, if any. -/
def State.reqCmd (s : State) : Option Word := s.requests.head?

/-- `rsp_valid`: the core presents a response. -/
def State.rspValid (s : State) : Bool := s.rsp.isSome

/-- `rsp`: the response word presented, if any. -/
def State.rspWord (s : State) : Option (BitVec 12) := s.rsp.map Response.toWord

/-- `req_ready`: 0 while `INIT_STATE` is `UNBUILT`, and from the acceptance of a command until its response is
delivered. -/
def State.reqReady (s : State) : Bool := decide (s.initState ≠ .unbuilt) && !s.rspValid

/-! ## What happens next -/

/-- What one step does. -/
inductive PortEvent where
  /-- The INIT sequence runs by itself after reset (70_reset_and_hazards.md R180). -/
  | initialise
  /-- The requester takes the response that is presented. -/
  | deliver (r : Response)
  /-- The response waits for its requester. -/
  | wait
  /-- No command is presented. -/
  | idle
  /-- The first word presented is accepted (R69). -/
  | accept (w : Word) (rest : List Word)
  deriving DecidableEq, Repr

/-- The events in the order the port enforces (R69): no command before the tables are built, and none before the last
response is delivered. -/
def portEvent (s : State) : PortEvent :=
  match s.initState with
  | .unbuilt => .initialise
  | .ready | .failed =>
    match s.rsp with
    | some r => if s.rspReady then .deliver r else .wait
    | none =>
      match s.requests with
      | [] => .idle
      | w :: rest => .accept w rest

/-- The response leaves the core; nothing of it is kept there (10_state.md R20). -/
def deliver (r : Response) (s : State) : State := (s.setRsp none).setDelivered (s.delivered ++ [r])

/-- An illegal word: `raise IllegalCommand`, no state changes (30_encoding.md R64). -/
def illegalCommand (s : State) : Access State := respond (.error .illegalCommand) s

/-- The reset event, in any state (70_reset_and_hazards.md R180): `UNBUILT`, the content of every table unspecified (no
entry listed, R30), no response held. What the requesters present, the pin `rsp_ready` and the responses they have
taken are outside the core and stay. -/
def resetEvent (s : State) : State :=
  ((State.reset.setRequests s.requests).setDelivered s.delivered).setRspReady s.rspReady

/-! ## Placing a command so that it is accepted next -/

/-- The tables as the INIT sequence leaves them, if it has not run (70_reset_and_hazards.md R180). -/
def completeInit (s : State) : State :=
  match s.initState with
  | .unbuilt => loadShipped s
  | .ready | .failed => s

/-- A response still presented is taken. -/
def takeResponse (s : State) : State :=
  match s.rsp with
  | some r => deliver r s
  | none => s

/-- `w` is presented before every other request. -/
def presentFirst (w : Word) (s : State) : State := s.setRequests (w :: s.requests)

end Sys2Proof.Machine
end

