-- ==== Sys2Proof/Machine/Step.lean ====
section
/-! DEFINITION. One step of the machine: the next event at its command port. -/

namespace Sys2Proof.Machine

/-- One step (30_encoding.md R69, 70_reset_and_hazards.md R180, R190): the INIT sequence after reset, the delivery of a
response, or one accepted command executed completely. -/
def step (s : State) : Host.Outcome State Fault Refusal :=
  match portEvent s with
  | .initialise => .next (initSequence Config.poly s)
  | .deliver r => .next (deliver r s)
  | .wait => .next s
  | .idle => .next s
  | .accept w rest =>
    match decode w with
    | .ok i => exec i (s.setRequests rest)
    | .error _ => illegalCommand (s.setRequests rest)

/-- `s` with the command word presented so that the very next step accepts and executes it: the INIT sequence has
run, the last response is taken, and the word is first at the port (notes/assumptions/6.md). -/
def State.withFetchWord (s : State) (nbits w : Nat) : State :=
  presentFirst (tableWord nbits w) (takeResponse (completeInit s))

end Sys2Proof.Machine
end

