-- ==== Sys2Proof/Machine/Diagnostics.lean ====
section
/-! DEFINITION. The polynomial diagnostics, a procedure the host runs over POLYCHK (44_polynomial_diagnostics.md). -/

namespace Sys2Proof.Machine

/-- The host issues one command and takes its response: the state left behind, and the response. -/
def issue (i : Instr) (s : State) : Option (State × Response) :=
  match exec i s with
  | .next t => t.rsp.map fun r => (t.setRsp none, r)
  | .fault _ => none
  | .refused _ => none

/-- The loop of R150: each candidate in turn; those whose response status is OK are appended. -/
def probe : List Byte → State → State × List Byte
  | [], s => (s, [])
  | p :: rest, s =>
    match issue (.polychk p) s with
    | some (t, .ok _) => ((probe rest t).1, p :: (probe rest t).2)
    | some (t, .error _) => probe rest t
    | none => probe rest s

/-- `allPossiblePolynomials()` (R150): the candidates 0 to 255, ascending. The state it leaves and its result. -/
def allPossiblePolynomials (s : State) : State × List Byte :=
  probe ((List.range 256).map (BitVec.ofNat 8)) s

end Sys2Proof.Machine
end

