-- ==== Sys2Proof/Safety.lean ====
section
/-! DEFINITION. The terms the claims use: which states accept commands, what it is for the tables to be built, the
invariant of every run, and the response a command is given. -/

namespace Sys2Proof.Machine

/-- Commands are accepted in `READY` and `FAILED`, never in `UNBUILT` (10_state.md R27). -/
def State.Accepts (s : State) : Prop := s.initState ≠ .unbuilt

/-- `READY` as 10_state.md R27 means it: the three tables are completely built from `POLY`, each from those before
it (70_reset_and_hazards.md R181). -/
def State.Built (s : State) : Prop :=
  s.initState = .ready ∧
  generateLogTable Config.poly = .ok s.logTab ∧
  s.expTab = generateExpTable s.logTab ∧
  s.mulTab = generateMultiplicationTable s

/-- The canonical form of all three tables: indices rise, and every listed index exists (20_memory.md R40). -/
def State.TablesCanonical (s : State) : Prop :=
  ∀ space : Space, (s.table space).wf ∧ ∀ c ∈ s.table space, c.1 < space.size

/-- The invariant of every run: the tables are canonical, and either the INIT sequence has not run or it has built
them. `FAILED` is not among its states (40_table_generator.md R84, 60_exceptions.md R168). -/
def State.Inv (s : State) : Prop := s.TablesCanonical ∧ (s.initState = .unbuilt ∨ s.Built)

/-- `INIT_STATE` and the three tables are the same: all a later command can observe (10_state.md R20). -/
def State.SameCore (s t : State) : Prop :=
  t.initState = s.initState ∧ t.logTab = s.logTab ∧ t.expTab = s.expTab ∧ t.mulTab = s.mulTab

/-- The requests still to come, the pin `rsp_ready` and the responses already taken are the same. -/
def State.SameRequesters (s t : State) : Prop :=
  t.requests = s.requests ∧ t.rspReady = s.rspReady ∧ t.delivered = s.delivered

/-- Entry `i` of a table exists and holds the byte `v`. -/
def State.Holds (s : State) (space : Space) (i : Nat) (v : Byte) : Prop := memRead space i s = .next v

/-- The response a command gives in a state, if it completes. -/
def reply (i : Instr) (s : State) : Option Response :=
  match exec i s with
  | .next t => t.rsp
  | .fault _ => none
  | .refused _ => none

/-- The response to a command word: of the command it decodes to, or of an illegal word. -/
def replyToWord (w : Word) (s : State) : Option Response :=
  match decode w with
  | .ok i => reply i s
  | .error _ => some (.error .illegalCommand)

/-- The element whose logarithm is `k` modulo 255 in the field of polynomial `p`: the generator raised to the power
`k`, by repeated doubling from 1 (40_table_generator.md R80, R81). -/
def generatorPower (p : Byte) (k : Nat) : Byte := (fun b => double b p)^[k] 1#8

/-- The 16 valid polynomials, ascending (40_table_generator.md R84, 44_polynomial_diagnostics.md R151). -/
def validPolynomials : List Byte :=
  [29#8, 43#8, 45#8, 77#8, 95#8, 99#8, 101#8, 105#8, 113#8, 135#8, 141#8, 169#8, 195#8, 207#8, 231#8, 245#8]

end Sys2Proof.Machine
end

