-- ==== Sys2Proof/Certificates/Slice0/Obligations.lean ====
section
/-! DEFINITION. The statements for the provers, from the numbered rules of the spec. -/

open Sys2Proof Sys2Proof.Machine

/-! ## Encoding (30_encoding.md) -/

/-- R70: decoding is total; the decode table; decoding undoes encoding; encoding undoes decoding exactly on the words
whose unused fields are zero; words that differ only in unused fields decode to the same command. -/
def Obligations.DecodeAndEncodeAgree : Prop :=
  (∀ w : Word, w.extractLsb' 48 12 ≠ 0#12 → ∃ e, decode w = .error e) ∧
  (∀ w : Word, w.extractLsb' 48 12 = 0#12 →
    let op := (w.extractLsb' 60 4).toNat
    let a : Byte := w.extractLsb' 40 8
    let b : Byte := w.extractLsb' 32 8
    let n := (w.extractLsb' 0 32).toNat
    (op = 0x0 → decode w = .ok (.add a b)) ∧
    (op = 0x1 → decode w = .ok (.sub a b)) ∧
    (op = 0x2 → decode w = .ok (.mul a b)) ∧
    (op = 0x3 → decode w = .ok (.div a b)) ∧
    (op = 0x4 → decode w = .ok (.exp a n)) ∧
    (op = 0x5 → decode w = .ok (.logrd a)) ∧
    (op = 0x6 → decode w = .ok (.exprd n)) ∧
    (op = 0x7 → decode w = .ok (.mulrd a b)) ∧
    (op = 0x8 → decode w = .ok .init) ∧
    (op = 0x9 → decode w = .ok (.polychk a)) ∧
    (0xA ≤ op → ∃ e, decode w = .error e)) ∧
  (∀ c : Instr, c.wf = true → decode (encode c) = .ok c) ∧
  (∀ (w : Word) (c : Instr), decode w = .ok c → c.wf = true ∧ (encode c = w ↔ w &&& ~~~c.usedBits = 0#64)) ∧
  (∀ (w w' : Word) (c : Instr), decode w = .ok c → w &&& c.usedBits = w' &&& c.usedBits → decode w' = .ok c)

/-- 30_encoding.md section 3: a word decodes to a command exactly when, under the mask of the opcode map, it matches
one of the ten rows. -/
def Obligations.OpcodeMapHasExactlyTenMatches : Prop :=
  ∀ w : Word, (∃ c, decode w = .ok c) ↔
    ∃ k : Nat, k < 10 ∧ w &&& 0xFFFF000000000000#64 = BitVec.ofNat 64 (k * 2 ^ 60)

/-- 95_test_vectors.md section 5: one word of every command, and the illegal words, decode as listed. -/
def Obligations.ListedWordsDecode : Prop :=
  decode 0x0000AA5500000000#64 = .ok (.add 0xAA#8 0x55#8) ∧
  decode 0x1000C8C800000000#64 = .ok (.sub 200#8 200#8) ∧
  decode 0x20008E0200000000#64 = .ok (.mul 142#8 2#8) ∧
  decode 0x300053CA00000000#64 = .ok (.div 83#8 202#8) ∧
  decode 0x40008E0001020409#64 = .ok (.exp 142#8 16909321) ∧
  decode 0x50008E0000000000#64 = .ok (.logrd 142#8) ∧
  decode 0x6000ABCD00000008#64 = .ok (.exprd 8) ∧
  decode 0x700001C800000000#64 = .ok (.mulrd 1#8 200#8) ∧
  decode 0x8000FFFFFFFFFFFF#64 = .ok .init ∧
  decode 0x9000F50000000000#64 = .ok (.polychk 245#8) ∧
  decode 0xA000000000000000#64 = .error (.reservedOpcode 0xA#4) ∧
  decode 0x2001030700000000#64 = .error (.reservedField 0x001#12)

/-- 30_encoding.md R65, R66: the response word is the status code and the data byte; an error's data is 0x00; the four
codes are the only ones, and two responses have the same word only if they are the same. -/
def Obligations.ResponseWordCarriesStatusAndData : Prop :=
  (∀ r : Response, r.toWord.extractLsb' 8 4 = r.status ∧ r.toWord.extractLsb' 0 8 = r.dataPins) ∧
  (∀ d : Byte, (Response.ok d).status = 0x0#4 ∧ (Response.ok d).dataPins = d) ∧
  (Response.error .invalidArgument).toWord = 0x100#12 ∧
  (Response.error .invalidPolynomial).toWord = 0x200#12 ∧
  (Response.error .illegalCommand).toWord = 0x300#12 ∧
  (∀ r r' : Response, r.toWord = r'.toWord → r = r')

/-! ## The port and reset (30_encoding.md section 7, 70_reset_and_hazards.md) -/

/-- A step on an accepted word that decodes is `exec` of the command, at the state with the word taken from the port. -/
def Obligations.StepRunsTheDecodedCommand : Prop :=
  ∀ (s : State) (w : Word) (rest : List Word) (i : Instr),
    s.Accepts → s.rsp = none → s.requests = w :: rest → decode w = .ok i →
    i.wf = true ∧ step s = exec i (s.setRequests rest)

/-- R64: exactly the words with a reserved operation code or a nonzero `RSV` are illegal, every other word names a
command; an illegal word answers `ILLEGAL_COMMAND` with data 0x00, changes no state, and the next command is
unaffected. -/
def Obligations.IllegalWordAnswersIllegalCommand : Prop :=
  (∀ w : Word, (0xA ≤ (w.extractLsb' 60 4).toNat ∨ w.extractLsb' 48 12 ≠ 0#12) ↔ ¬ ∃ c, decode w = .ok c) ∧
  (∀ (s : State) (w : Word) (rest : List Word),
    s.Accepts → s.rsp = none → s.requests = w :: rest →
    (0xA ≤ (w.extractLsb' 60 4).toNat ∨ w.extractLsb' 48 12 ≠ 0#12) →
    ∃ t, step s = .next t ∧ t = (s.setRequests rest).setRsp (some (.error .illegalCommand)) ∧
      t.rspWord = some 0x300#12 ∧ s.SameCore t ∧ ∀ v : Word, replyToWord v t = replyToWord v s)

/-- 30_encoding.md section 7: a step leaves the requests alone, or it accepts exactly the first of them, and then
`req_valid` and `req_ready` are 1 before it (tables built, no response outstanding), exactly one response is
presented after it, and `req_ready` is 0. -/
def Obligations.StepAcceptsOnlyWhenReady : Prop :=
  ∀ s t : State, step s = .next t →
    (t.requests = s.requests ∨
      (s.reqValid = true ∧ s.reqReady = true ∧ ∃ w, s.requests = w :: t.requests ∧ s.reqCmd = some w ∧
        t.rsp = replyToWord w s ∧ t.rsp.isSome = true ∧ t.delivered = s.delivered ∧ t.reqReady = false))

/-- 30_encoding.md section 7, the model's reading of the response handshake (notes/assumptions/5.md): a presented
response is delivered when `rsp_ready` is 1 and waits when it is 0, and with nothing presented nothing happens. -/
def Obligations.PresentedResponseIsDeliveredFirst : Prop :=
  ∀ s : State, s.Accepts →
    (∀ r, s.rsp = some r → s.rspReady = true →
      step s = .next ((s.setRsp none).setDelivered (s.delivered ++ [r]))) ∧
    (∀ r, s.rsp = some r → s.rspReady = false → step s = .next s) ∧
    (s.rsp = none → s.requests = [] → step s = .next s)

/-- 70_reset_and_hazards.md section 1 and 10_state.md section 8: reset puts the core in `UNBUILT` with no response held,
whatever the state was; in `UNBUILT` no command is accepted, and the next step runs the INIT sequence by itself, whatever
is presented, gives no response, and leaves the tables built; after a reset, commands are then accepted. That an entry no
one has specified reads as no value at all is the model's choice (notes/assumptions/4.md, DESIGN CHOICE): the spec says
only that it is unspecified. -/
def Obligations.ResetRunsInitBeforeAnyCommand : Prop :=
  State.reset.initState = .unbuilt ∧
  (∀ s : State, (resetEvent s).initState = .unbuilt ∧ (resetEvent s).rsp = none ∧
    ∀ (space : Space) (k : Nat) (v : Byte), ¬ (resetEvent s).Holds space k v) ∧
  (∀ s : State, s.initState = .unbuilt →
    s.reqReady = false ∧
    ∃ t, step s = .next t ∧ t.Built ∧ t.rsp = s.rsp ∧ s.SameRequesters t ∧ (s.rsp = none → t.reqReady = true))

/-- 70_reset_and_hazards.md section 1 (eager and lazy construction): the response to a command after the INIT sequence
does not depend on the contents of the tables before it, and running the sequence again before a command changes no
response. -/
def Obligations.ReplyDoesNotDependOnPowerOnContents : Prop :=
  (∀ (s s' : State) (w : Word),
    replyToWord w (initSequence Config.poly s) = replyToWord w (initSequence Config.poly s')) ∧
  (∀ (s : State) (w : Word), s.Built → replyToWord w (initSequence Config.poly s) = replyToWord w s)

/-- 30_encoding.md section 7 and 70_reset_and_hazards.md R190: from built tables with requesters that take their
responses, every presented word is answered, with one response each, in order, each the response the word is given on
those tables; nothing is left outstanding and the tables are unchanged. That it takes two steps a word (acceptance, then
delivery) is the model's granularity, not the spec's (notes/assumptions/2.md and notes/assumptions/5.md). -/
def Obligations.RequestsAreAnsweredInOrder : Prop :=
  ∀ s : State, s.Built → s.rsp = none → s.rspReady = true →
    ∃ (t : State) (rs : List Response),
      Sys2Proof.core.run (2 * s.requests.length) s = .next t ∧
      t.requests = [] ∧ t.rsp = none ∧ s.SameCore t ∧
      t.delivered = s.delivered ++ rs ∧
      rs.map some = s.requests.map fun w => replyToWord w s

/-! ## ADD and SUB (42_field_ops.md section 2) -/

/-- R111: ADD answers `a xor b` in every state that accepts commands, whatever the tables hold, and changes nothing
else. -/
def Obligations.AddAnswersXor : Prop :=
  (∀ (a b : Byte) (n : BitVec 32), decode (0x0#4 ++ 0#12 ++ a ++ b ++ n) = .ok (.add a b)) ∧
  (∀ a b : Byte, encode (.add a b) = 0x0#4 ++ 0#12 ++ a ++ b ++ 0#32) ∧
  (∀ (s : State) (a b : Byte), s.Accepts → exec (.add a b) s = .next (s.setRsp (some (.ok (a ^^^ b))))) ∧
  (∀ (s : State) (a : Byte), s.Accepts →
    exec (.add a 0#8) s = .next (s.setRsp (some (.ok a))) ∧ exec (.add a a) s = .next (s.setRsp (some (.ok 0#8))))

/-- R112: SUB answers `a xor b`, the same as ADD and as SUB with the operands exchanged. -/
def Obligations.SubAnswersXor : Prop :=
  (∀ (a b : Byte) (n : BitVec 32), decode (0x1#4 ++ 0#12 ++ a ++ b ++ n) = .ok (.sub a b)) ∧
  (∀ a b : Byte, encode (.sub a b) = 0x1#4 ++ 0#12 ++ a ++ b ++ 0#32) ∧
  (∀ (s : State) (a b : Byte), s.Accepts →
    exec (.sub a b) s = .next (s.setRsp (some (.ok (a ^^^ b)))) ∧
    exec (.sub a b) s = exec (.add a b) s ∧ exec (.sub a b) s = exec (.sub b a) s ∧
    exec (.sub 0#8 b) s = .next (s.setRsp (some (.ok b))) ∧
    exec (.sub a a) s = .next (s.setRsp (some (.ok 0#8))))

/-! ## MUL, DIV, EXP through the tables (42_field_ops.md sections 3 to 6) -/

/-- R113: MUL in `READY`, whatever the tables hold: the zero test first, so that `LOG[0]` is never used; then the entry
of `EXP` at the unreduced sum of the logarithms. On the built tables, the corner cases the rule lists. -/
def Obligations.MulReadsExpAtTheSumOfLogs : Prop :=
  (∀ (a b : Byte) (n : BitVec 32), decode (0x2#4 ++ 0#12 ++ a ++ b ++ n) = .ok (.mul a b)) ∧
  (∀ a b : Byte, encode (.mul a b) = 0x2#4 ++ 0#12 ++ a ++ b ++ 0#32) ∧
  (∀ (s : State) (a b : Byte), s.initState = .ready → (a = 0#8 ∨ b = 0#8) →
    exec (.mul a b) s = .next (s.setRsp (some (.ok 0#8)))) ∧
  (∀ (s : State) (a b la lb d : Byte), s.initState = .ready → a ≠ 0#8 → b ≠ 0#8 →
    s.Holds .log a.toNat la → la ≠ 0xFF#8 → s.Holds .log b.toNat lb → lb ≠ 0xFF#8 →
    s.Holds .exp (la.toNat + lb.toNat) d →
    exec (.mul a b) s = .next (s.setRsp (some (.ok d)))) ∧
  (∀ s : State, s.Built →
    (∀ a : Byte, exec (.mul a 1#8) s = .next (s.setRsp (some (.ok a)))) ∧
    (∀ a b : Byte, a ≠ 0#8 → b ≠ 0#8 → ∃ d, d ≠ 0#8 ∧ exec (.mul a b) s = .next (s.setRsp (some (.ok d)))) ∧
    exec (.mul 2#8 142#8) s = .next (s.setRsp (some (.ok 1#8))) ∧
    exec (.mul 142#8 142#8) s = .next (s.setRsp (some (.ok 71#8))) ∧
    exec (.mul 3#8 7#8) s = .next (s.setRsp (some (.ok 9#8))))

/-- R114, R120: DIV in `READY`, whatever the tables hold: the divisor test first, for every dividend; then the zero
dividend; then the entry of `EXP` at the difference of the logarithms, plus 255 if it is negative. -/
def Obligations.DivReadsExpAtTheDifferenceOfLogs : Prop :=
  (∀ (a b : Byte) (n : BitVec 32), decode (0x3#4 ++ 0#12 ++ a ++ b ++ n) = .ok (.div a b)) ∧
  (∀ a b : Byte, encode (.div a b) = 0x3#4 ++ 0#12 ++ a ++ b ++ 0#32) ∧
  (∀ (s : State) (a : Byte), s.initState = .ready →
    exec (.div a 0#8) s = .next (s.setRsp (some (.error .invalidArgument)))) ∧
  (∀ (s : State) (b : Byte), s.initState = .ready → b ≠ 0#8 →
    exec (.div 0#8 b) s = .next (s.setRsp (some (.ok 0#8)))) ∧
  (∀ (s : State) (a b la lb d : Byte), s.initState = .ready → a ≠ 0#8 → b ≠ 0#8 →
    s.Holds .log a.toNat la → la ≠ 0xFF#8 → s.Holds .log b.toNat lb → lb ≠ 0xFF#8 →
    s.Holds .exp (if (la.toNat : Int) - lb.toNat < 0 then (la.toNat + 255) - lb.toNat else la.toNat - lb.toNat) d →
    exec (.div a b) s = .next (s.setRsp (some (.ok d)))) ∧
  (∀ s : State, s.Built →
    (∀ a : Byte, a ≠ 0#8 → exec (.div a a) s = .next (s.setRsp (some (.ok 1#8)))) ∧
    (∀ a : Byte, exec (.div a 1#8) s = .next (s.setRsp (some (.ok a)))) ∧
    (∀ a b : Byte, b ≠ 0#8 → ∃ q, exec (.div a b) s = .next (s.setRsp (some (.ok q))) ∧
      exec (.mul q b) s = .next (s.setRsp (some (.ok a)))) ∧
    exec (.div 1#8 142#8) s = .next (s.setRsp (some (.ok 2#8))) ∧
    exec (.div 9#8 7#8) s = .next (s.setRsp (some (.ok 3#8))))

/-- R115: EXP in `READY`, whatever the tables hold, for every natural exponent: 1 for the exponent 0, even of the
element 0; then 0 for the element 0; then the entry of `EXP` at the exact product reduced modulo 255, which is the same
entry if the exponent is reduced first. -/
def Obligations.ExpReadsExpAtTheProductModulo255 : Prop :=
  (∀ (a b : Byte) (n : BitVec 32), decode (0x4#4 ++ 0#12 ++ a ++ b ++ n) = .ok (.exp a n.toNat)) ∧
  (∀ (a : Byte) (n : BitVec 32), encode (.exp a n.toNat) = 0x4#4 ++ 0#12 ++ a ++ 0#8 ++ n) ∧
  (∀ (s : State) (a : Byte), s.initState = .ready → exec (.exp a 0) s = .next (s.setRsp (some (.ok 1#8)))) ∧
  (∀ (s : State) (n : Nat), s.initState = .ready → 0 < n →
    exec (.exp 0#8 n) s = .next (s.setRsp (some (.ok 0#8)))) ∧
  (∀ (s : State) (a l d : Byte) (n : Nat), s.initState = .ready → 0 < n → a ≠ 0#8 →
    s.Holds .log a.toNat l → l ≠ 0xFF#8 → s.Holds .exp (l.toNat * n % 255) d →
    exec (.exp a n) s = .next (s.setRsp (some (.ok d)))) ∧
  (∀ (l : Byte) (n : Nat), l.toNat * (n % 255) % 255 = l.toNat * n % 255) ∧
  (∀ (s : State) (a l d : Byte) (n : Nat), s.initState = .ready → 0 < n → a ≠ 0#8 →
    s.Holds .log a.toNat l → l ≠ 0xFF#8 → s.Holds .exp (l.toNat * (n % 255) % 255) d →
    exec (.exp a n) s = .next (s.setRsp (some (.ok d)))) ∧
  (∀ s : State, s.Built →
    (∀ a : Byte, exec (.exp a 1) s = .next (s.setRsp (some (.ok a)))) ∧
    (∀ a : Byte, exec (.exp a 2) s = exec (.mul a a) s) ∧
    (∀ n : Nat, exec (.exp 1#8 n) s = .next (s.setRsp (some (.ok 1#8)))) ∧
    (∀ a : Byte, a ≠ 0#8 →
      exec (.exp a 255) s = .next (s.setRsp (some (.ok 1#8))) ∧
      exec (.exp a 256) s = .next (s.setRsp (some (.ok a))) ∧
      exec (.exp a 254) s = exec (.div 1#8 a) s ∧
      exec (.exp a 4294967295) s = .next (s.setRsp (some (.ok 1#8)))) ∧
    exec (.exp 2#8 8) s = .next (s.setRsp (some (.ok 29#8))))

/-! ## The table reads (41_table_lookups.md, 43_mult_table_builder.md) -/

/-- R101: LOGRD answers the stored byte of `LOG[a]` with status OK, also for `UNDEF`, whose byte is 0xFF. -/
def Obligations.LogrdAnswersTheStoredByte : Prop :=
  (∀ (a b : Byte) (n : BitVec 32), decode (0x5#4 ++ 0#12 ++ a ++ b ++ n) = .ok (.logrd a)) ∧
  (∀ a : Byte, encode (.logrd a) = 0x5#4 ++ 0#12 ++ a ++ 0#8 ++ 0#32) ∧
  (∀ (s : State) (a v : Byte), s.initState = .ready → s.Holds .log a.toNat v →
    exec (.logrd a) s = .next (s.setRsp (some (.ok v)))) ∧
  (∀ (s : State) (a : Byte), s.initState = .failed →
    exec (.logrd a) s = .next (s.setRsp (some (.error .invalidPolynomial)))) ∧
  (∀ s : State, s.Built →
    exec (.logrd 0#8) s = .next (s.setRsp (some (.ok 0xFF#8))) ∧
    exec (.logrd 1#8) s = .next (s.setRsp (some (.ok 0#8))) ∧
    exec (.logrd 3#8) s = .next (s.setRsp (some (.ok 25#8))) ∧
    exec (.logrd 142#8) s = .next (s.setRsp (some (.ok 254#8))) ∧
    (∀ a : Byte, a ≠ 0#8 → ∃ l : Byte, l.toNat ≤ 254 ∧
      exec (.logrd a) s = .next (s.setRsp (some (.ok l))) ∧ generatorPower Config.poly l.toNat = a))

/-- R103: EXPRD answers `EXP[k]` for `k` below 510 and InvalidArgument from 510 on, reading nothing; in `FAILED`,
InvalidPolynomial first. On the built tables the entry is the generator to the power `k` modulo 255 (R102). -/
def Obligations.ExprdAnswersTheEntry : Prop :=
  (∀ (a b : Byte) (n : BitVec 32), decode (0x6#4 ++ 0#12 ++ a ++ b ++ n) = .ok (.exprd n.toNat)) ∧
  (∀ n : BitVec 32, encode (.exprd n.toNat) = 0x6#4 ++ 0#12 ++ 0#8 ++ 0#8 ++ n) ∧
  (∀ (s : State) (k : Nat) (d : Byte), s.initState = .ready → k < 510 → s.Holds .exp k d →
    exec (.exprd k) s = .next (s.setRsp (some (.ok d)))) ∧
  (∀ (s : State) (k : Nat), s.initState = .ready → 510 ≤ k →
    exec (.exprd k) s = .next (s.setRsp (some (.error .invalidArgument)))) ∧
  (∀ (s : State) (k : Nat), s.initState = .failed →
    exec (.exprd k) s = .next (s.setRsp (some (.error .invalidPolynomial)))) ∧
  (∀ (s : State) (k : Nat), s.Built → k < 510 →
    exec (.exprd k) s = .next (s.setRsp (some (.ok (generatorPower Config.poly (k % 255))))) ∧
    generatorPower Config.poly (k % 255) ≠ 0#8)

/-- R143, R144: MULRD answers the entry of `MULTAB` at the linear index `a*256 + b`, and nothing else of the tables
decides its response. -/
def Obligations.MulrdAnswersTheEntry : Prop :=
  (∀ (a b : Byte) (n : BitVec 32), decode (0x7#4 ++ 0#12 ++ a ++ b ++ n) = .ok (.mulrd a b)) ∧
  (∀ a b : Byte, encode (.mulrd a b) = 0x7#4 ++ 0#12 ++ a ++ b ++ 0#32) ∧
  (∀ (s : State) (a b d : Byte), s.initState = .ready → s.Holds .mulTab (a.toNat * 256 + b.toNat) d →
    exec (.mulrd a b) s = .next (s.setRsp (some (.ok d)))) ∧
  (∀ (s : State) (a b : Byte), s.initState = .failed →
    exec (.mulrd a b) s = .next (s.setRsp (some (.error .invalidPolynomial)))) ∧
  (∀ (s : State) (a b : Byte) (l e : Memory),
    reply (.mulrd a b) ((s.setLogTab l).setExpTab e) = reply (.mulrd a b) s) ∧
  (∀ (s : State) (a b : Byte), s.Built →
    exec (.mulrd 0#8 b) s = .next (s.setRsp (some (.ok 0#8))) ∧
    exec (.mulrd a 0#8) s = .next (s.setRsp (some (.ok 0#8))) ∧
    exec (.mulrd a b) s = exec (.mulrd b a) s ∧
    exec (.mulrd 142#8 142#8) s = .next (s.setRsp (some (.ok 71#8))) ∧
    exec (.mulrd 3#8 7#8) s = .next (s.setRsp (some (.ok 9#8))) ∧
    exec (.mulrd a b) s = .next (s.setRsp (some (.ok (polymul a b)))))

/-! ## The table generator (40_table_generator.md) -/

/-- R81: the doubling step, in numbers, as multiplication by x modulo `MODULUS(p)`, and the worked values. -/
def Obligations.DoublingShiftsAndReduces : Prop :=
  (∀ b p : Byte, (double b p).toNat =
    if 256 ≤ 2 * b.toNat then (2 * b.toNat - 256) ^^^ p.toNat else 2 * b.toNat) ∧
  (∀ b p : Byte, (double b p).zeroExtend 9 =
    if b.getLsbD 7 then (b.zeroExtend 9 <<< 1) ^^^ Config.modulus p else b.zeroExtend 9 <<< 1) ∧
  double 128#8 29#8 = 29#8 ∧ double 29#8 29#8 = 58#8 ∧ double 205#8 29#8 = 135#8

/-- R82: a run of the generator fails, with InvalidPolynomial and no other error, exactly when the element repeats
within the 255 iterations. -/
def Obligations.GeneratorFailsExactlyOnARepeat : Prop :=
  (∀ p : Byte, (∃ k, generateLogTable p = .error k) ↔
    ∃ i j : Nat, i < j ∧ j ≤ 254 ∧ generatorPower p i = generatorPower p j) ∧
  (∀ (p : Byte) (k : ErrorKind), generateLogTable p = .error k → k = .invalidPolynomial) ∧
  generatorPower 0#8 8 = 0#8 ∧ generatorPower 0#8 9 = 0#8

/-- R83: the table of a successful run, for every polynomial: `UNDEF` at 0, and a bijection from the nonzero elements
to the logarithms 0 to 254, each the power of the generator that gives the element. -/
def Obligations.ValidLogTableIsABijection : Prop :=
  (∀ (p : Byte) (t : Memory), generateLogTable p = .ok t →
    t.read 0 = some 0xFF#8 ∧ t.read 1 = some 0#8 ∧ t.read 2 = some 1#8 ∧
    (∀ e : Byte, e ≠ 0#8 → ∃ l : Byte, l.toNat ≤ 254 ∧ t.read e.toNat = some l) ∧
    (∀ e l : Byte, e ≠ 0#8 → (t.read e.toNat = some l ↔ l.toNat ≤ 254 ∧ generatorPower p l.toNat = e)) ∧
    (∀ l : Byte, l.toNat ≤ 254 → ∃ e : Byte, e ≠ 0#8 ∧ t.read e.toNat = some l ∧
      ∀ e' : Byte, t.read e'.toNat = some l → e' = e)) ∧
  (∀ t : Memory, generateLogTable 29#8 = .ok t →
    t.read 4 = some 2#8 ∧ t.read 8 = some 3#8 ∧ t.read 16 = some 4#8 ∧ t.read 32 = some 5#8 ∧
    t.read 64 = some 6#8 ∧ t.read 128 = some 7#8 ∧ t.read 29 = some 8#8 ∧ t.read 58 = some 9#8 ∧
    t.read 3 = some 25#8 ∧ t.read 7 = some 198#8 ∧ t.read 9 = some 223#8 ∧ t.read 142 = some 254#8 ∧
    t.read 255 = some 175#8)

/-- R84: exactly the 16 listed values of `p` give a table, and every other value raises InvalidPolynomial; 29 is one of
the 16. -/
def Obligations.ExactlySixteenPolynomialsAreValid : Prop :=
  (∀ p : Byte, (∃ t, generateLogTable p = .ok t) ↔ p ∈ validPolynomials) ∧
  (∀ p : Byte, p ∉ validPolynomials → generateLogTable p = .error .invalidPolynomial) ∧
  validPolynomials.length = 16 ∧ validPolynomials.Nodup ∧ Config.poly ∈ validPolynomials

/-- R86: the exponent table built from any valid log table: two whole periods of the generator's powers, no zero entry,
and the round trip in both directions. -/
def Obligations.ExpTableHoldsTwoPeriods : Prop :=
  (∀ (p : Byte) (t : Memory), generateLogTable p = .ok t →
    (∀ k : Nat, k < 510 → (generateExpTable t).read k = some (generatorPower p (k % 255))) ∧
    (∀ k : Nat, 510 ≤ k → (generateExpTable t).read k = none) ∧
    (∀ l : Nat, l ≤ 254 → (generateExpTable t).read l = (generateExpTable t).read (l + 255)) ∧
    (∀ k : Nat, (generateExpTable t).read k ≠ some 0#8) ∧
    (∀ e l : Byte, e ≠ 0#8 → t.read e.toNat = some l → (generateExpTable t).read l.toNat = some e) ∧
    (∀ (k : Nat) (e : Byte), k < 510 → (generateExpTable t).read k = some e →
      t.read e.toNat = some (BitVec.ofNat 8 (k % 255)))) ∧
  (∀ t : Memory, generateLogTable 29#8 = .ok t →
    (List.range 16).map (generateExpTable t).read =
      [1#8, 2#8, 4#8, 8#8, 16#8, 32#8, 64#8, 128#8, 29#8, 58#8, 116#8, 232#8, 205#8, 135#8, 19#8, 38#8].map some ∧
    (generateExpTable t).read 254 = some 142#8 ∧ (generateExpTable t).read 255 = some 1#8 ∧
    (generateExpTable t).read 253 = some 71#8 ∧ (generateExpTable t).read 508 = some 71#8 ∧
    (generateExpTable t).read 509 = some 142#8)

/-- R87: INIT in every state that accepts commands leaves the tables built from `POLY`, `READY`, and answers OK; in
`READY` with the tables built it changes nothing; where the generator fails, the sequence sets `FAILED`. -/
def Obligations.InitBuildsAllTables : Prop :=
  (∀ (a b : Byte) (n : BitVec 32), decode (0x8#4 ++ 0#12 ++ a ++ b ++ n) = .ok .init) ∧
  encode .init = 0x8000000000000000#64 ∧
  (∀ s : State, s.Accepts → ∃ t, exec .init s = .next t ∧ t.Built ∧ t.rsp = some (.ok 0x00#8) ∧ s.SameRequesters t ∧
    exec (.logrd 2#8) t = .next (t.setRsp (some (.ok 1#8)))) ∧
  (∀ s : State, s.Built → exec .init s = .next (s.setRsp (some (.ok 0x00#8)))) ∧
  (∀ (p : Byte) (s : State), p ∉ validPolynomials →
    initSequence p s = s.setInitState .failed ∧ generatorResponse p = .error .invalidPolynomial) ∧
  (∀ (p : Byte) (s : State), p ∈ validPolynomials →
    (initSequence p s).initState = .ready ∧ generatorResponse p = .ok 0x00#8 ∧
    generateLogTable p = .ok (initSequence p s).logTab ∧
    (initSequence p s).expTab = generateExpTable (initSequence p s).logTab ∧
    ∀ a b : Byte, ∃ d, multiply a b (initSequence p s) = .next d ∧
      (initSequence p s).Holds .mulTab (a.toNat * 256 + b.toNat) d)

/-- R88: POLYCHK reports whether the generator succeeds on the candidate, for every candidate and in every state that
accepts commands, `FAILED` included, and changes nothing else. -/
def Obligations.PolychkReportsTheGenerator : Prop :=
  (∀ (p b : Byte) (n : BitVec 32), decode (0x9#4 ++ 0#12 ++ p ++ b ++ n) = .ok (.polychk p)) ∧
  (∀ p : Byte, encode (.polychk p) = 0x9#4 ++ 0#12 ++ p ++ 0#8 ++ 0#32) ∧
  (∀ (s : State) (p : Byte) (t : Memory), s.Accepts → generateLogTable p = .ok t →
    exec (.polychk p) s = .next (s.setRsp (some (.ok 0x00#8)))) ∧
  (∀ (s : State) (p : Byte) (k : ErrorKind), s.Accepts → generateLogTable p = .error k →
    exec (.polychk p) s = .next (s.setRsp (some (.error .invalidPolynomial)))) ∧
  (∀ (s : State) (p : Byte), s.Accepts →
    exec (.polychk p) s =
      .next (s.setRsp (some (if p ∈ validPolynomials then .ok 0x00#8 else .error .invalidPolynomial))))

/-- R151: the host's diagnostics return the 16 valid polynomials, ascending, and leave the tables and `INIT_STATE`
alone (44_polynomial_diagnostics.md R150). -/
def Obligations.DiagnosticsReturnTheSixteen : Prop :=
  ∀ s : State, s.Accepts →
    (allPossiblePolynomials s).2 = validPolynomials ∧ (allPossiblePolynomials s).2.length = 16 ∧
    (allPossiblePolynomials s).2.Nodup ∧ 29#8 ∈ (allPossiblePolynomials s).2 ∧
    s.SameCore (allPossiblePolynomials s).1

/-! ## The laws (41_table_lookups.md section 3, 42_field_ops.md section 7, 43_mult_table_builder.md section 1) -/

/-- R104: the round trip between LOGRD and EXPRD on the built tables, in both directions, and the two copies. -/
def Obligations.LogAndExpRoundTrip : Prop :=
  ∀ s : State, s.Built →
    (∀ e : Byte, e ≠ 0#8 → ∃ l : Byte, exec (.logrd e) s = .next (s.setRsp (some (.ok l))) ∧
      exec (.exprd l.toNat) s = .next (s.setRsp (some (.ok e)))) ∧
    (∀ k : Nat, k < 510 → ∃ v : Byte, exec (.exprd k) s = .next (s.setRsp (some (.ok v))) ∧
      exec (.logrd v) s = .next (s.setRsp (some (.ok (BitVec.ofNat 8 (k % 255)))))) ∧
    (∀ k : Nat, k ≤ 254 → exec (.exprd k) s = exec (.exprd (k + 255)) s)

/-- R117, R118: the identities, closure, and that adding (or subtracting) the same element twice undoes it. -/
def Obligations.IdentitiesAndSelfInverse : Prop :=
  ∀ s : State, s.Built →
    (∀ a : Byte, exec (.add a 0#8) s = .next (s.setRsp (some (.ok a))) ∧
      exec (.mul a 1#8) s = .next (s.setRsp (some (.ok a))) ∧
      exec (.mul a 0#8) s = .next (s.setRsp (some (.ok 0#8)))) ∧
    (∀ (a b : Byte) (n : Nat), ∃ c d e f : Byte,
      exec (.add a b) s = .next (s.setRsp (some (.ok c))) ∧
      exec (.sub a b) s = .next (s.setRsp (some (.ok d))) ∧
      exec (.mul a b) s = .next (s.setRsp (some (.ok e))) ∧
      exec (.exp a n) s = .next (s.setRsp (some (.ok f))) ∧
      exec (.add c b) s = .next (s.setRsp (some (.ok a))) ∧
      exec (.sub c b) s = .next (s.setRsp (some (.ok a))) ∧
      exec (.add d b) s = .next (s.setRsp (some (.ok a))) ∧
      exec (.sub d b) s = .next (s.setRsp (some (.ok a)))) ∧
    (∀ a b : Byte, b ≠ 0#8 → ∃ q : Byte, exec (.div a b) s = .next (s.setRsp (some (.ok q))))

/-- R119: dividing a product by either factor gives the other. -/
def Obligations.DivisionUndoesMultiplication : Prop :=
  ∀ s : State, s.Built → ∀ a b : Byte, a ≠ 0#8 → b ≠ 0#8 → ∃ c : Byte,
    exec (.mul a b) s = .next (s.setRsp (some (.ok c))) ∧
    exec (.div c b) s = .next (s.setRsp (some (.ok a))) ∧
    exec (.div c a) s = .next (s.setRsp (some (.ok b)))

/-- R121: EXP is repeated multiplication, for every element, zero included, and every natural exponent. -/
def Obligations.ExpIsRepeatedMultiplication : Prop :=
  ∀ s : State, s.Built →
    (∀ (a : Byte) (n : Nat), exec (.exp a n) s = .next (s.setRsp (some (.ok ((fun r => polymul r a)^[n] 1#8))))) ∧
    (∀ (a : Byte) (n : Nat), ∃ r r' : Byte, exec (.exp a n) s = .next (s.setRsp (some (.ok r))) ∧
      exec (.mul r a) s = .next (s.setRsp (some (.ok r'))) ∧
      exec (.exp a (n + 1)) s = .next (s.setRsp (some (.ok r')))) ∧
    (∀ a : Byte, exec (.exp a 0) s = .next (s.setRsp (some (.ok 1#8))) ∧
      exec (.exp a 1) s = .next (s.setRsp (some (.ok a))) ∧ exec (.exp a 2) s = exec (.mul a a) s) ∧
    (∀ n : Nat, 0 < n → exec (.exp 0#8 n) s = .next (s.setRsp (some (.ok 0#8))))

/-- R122: MUL through the tables is polynomial multiplication modulo 0x11D, for all 65536 pairs. -/
def Obligations.MulIsPolynomialMultiplication : Prop :=
  ∀ s : State, s.Built → ∀ a b : Byte, exec (.mul a b) s = .next (s.setRsp (some (.ok (polymul a b))))

/-- R123: ADD, MUL and DIV make the 256 elements a field. -/
def Obligations.CommandsFormAField : Prop :=
  ∀ s : State, s.Built → ∃ plus times : Byte → Byte → Byte,
    (∀ a b : Byte, exec (.add a b) s = .next (s.setRsp (some (.ok (plus a b))))) ∧
    (∀ a b : Byte, exec (.mul a b) s = .next (s.setRsp (some (.ok (times a b))))) ∧
    (∀ a b : Byte, times a b = times b a) ∧
    (∀ a b c : Byte, times (times a b) c = times a (times b c)) ∧
    (∀ a b c : Byte, times a (plus b c) = plus (times a b) (times a c)) ∧
    (∀ a b : Byte, plus a b = plus b a) ∧
    (∀ a b c : Byte, plus (plus a b) c = plus a (plus b c)) ∧
    (∀ a : Byte, a ≠ 0#8 → ∃ v : Byte, exec (.div 1#8 a) s = .next (s.setRsp (some (.ok v))) ∧
      times a v = 1#8 ∧ ∀ u : Byte, times a u = 1#8 → u = v) ∧
    (∀ a b : Byte, b ≠ 0#8 → ∃ v : Byte, exec (.div 1#8 b) s = .next (s.setRsp (some (.ok v))) ∧
      exec (.div a b) s = .next (s.setRsp (some (.ok (times a v)))))

/-- R141, R142: the built multiplication table: symmetric, zero in row and column 0, the identity in row 1, a
permutation in every other row and column, the stated sums, and the same field as MUL. -/
def Obligations.MultTableIsTheProductTable : Prop :=
  ∀ s : State, s.Built → ∃ table : Byte → Byte → Byte,
    (∀ a b : Byte, s.Holds .mulTab (a.toNat * 256 + b.toNat) (table a b)) ∧
    (∀ a b : Byte, exec (.mulrd a b) s = .next (s.setRsp (some (.ok (table a b)))) ∧
      exec (.mul a b) s = .next (s.setRsp (some (.ok (table a b))))) ∧
    (∀ a b : Byte, table a b = table b a) ∧
    (∀ a b : Byte, a = 0#8 ∨ b = 0#8 → table a b = 0#8) ∧
    (∀ a b : Byte, a ≠ 0#8 → b ≠ 0#8 → table a b ≠ 0#8) ∧
    (∀ b : Byte, table 1#8 b = b) ∧
    (∀ a : Byte, a ≠ 0#8 → Function.Bijective (table a) ∧ Function.Bijective fun b => table b a) ∧
    (∀ a : Nat, 0 < a → a < 256 →
      ((List.range 256).map fun b => (table (BitVec.ofNat 8 a) (BitVec.ofNat 8 b)).toNat).sum = 32640) ∧
    ((List.range 256).map fun a =>
      ((List.range 256).map fun b => (table (BitVec.ofNat 8 a) (BitVec.ofNat 8 b)).toNat).sum).sum = 8323200

/-! ## Errors (60_exceptions.md) -/

/-- R165, R163: a command word, in `READY` with the tables built or in `FAILED`, is answered with exactly one status,
the first of the listed causes that holds, else OK. -/
def Obligations.StatusFollowsThePriority : Prop :=
  ∀ (s : State) (w : Word) (rest : List Word),
    (s.Built ∨ s.initState = .failed) → s.rsp = none → s.requests = w :: rest →
    ∃ (t : State) (r : Response), step s = .next t ∧ t.rsp = some r ∧
      (((0xA ≤ (w.extractLsb' 60 4).toNat ∨ w.extractLsb' 48 12 ≠ 0#12) ∧ r.status = 0x3#4) ∨
       (¬ (0xA ≤ (w.extractLsb' 60 4).toNat ∨ w.extractLsb' 48 12 ≠ 0#12) ∧ ∃ i, decode w = .ok i ∧
        r.status =
          match s.initState, i with
          | .failed, .mul _ _ | .failed, .div _ _ | .failed, .exp _ _ => 0x2#4
          | .failed, .logrd _ | .failed, .exprd _ | .failed, .mulrd _ _ => 0x2#4
          | _, .div _ b => if b = 0#8 then 0x1#4 else 0x0#4
          | _, .exprd k => if 510 ≤ k then 0x1#4 else 0x0#4
          | _, .polychk p => if p ∈ validPolynomials then 0x0#4 else 0x2#4
          | _, _ => 0x0#4))

/-- R168: a failing generator run sets `FAILED` and changes no table; in `FAILED` the six commands that read a table
answer InvalidPolynomial whatever their operands, ADD, SUB and POLYCHK answer as in `READY`, and INIT runs the
sequence again. -/
def Obligations.FailedStateAnswersInvalidPolynomial : Prop :=
  (∀ (p : Byte) (s : State) (k : ErrorKind), generateLogTable p = .error k →
    initSequence p s = s.setInitState .failed) ∧
  (∀ (s : State) (a b : Byte) (n : Nat), s.initState = .failed →
    exec (.mul a b) s = .next (s.setRsp (some (.error .invalidPolynomial))) ∧
    exec (.div a b) s = .next (s.setRsp (some (.error .invalidPolynomial))) ∧
    exec (.exp a n) s = .next (s.setRsp (some (.error .invalidPolynomial))) ∧
    exec (.logrd a) s = .next (s.setRsp (some (.error .invalidPolynomial))) ∧
    exec (.exprd n) s = .next (s.setRsp (some (.error .invalidPolynomial))) ∧
    exec (.mulrd a b) s = .next (s.setRsp (some (.error .invalidPolynomial))) ∧
    exec (.add a b) s = .next (s.setRsp (some (.ok (a ^^^ b)))) ∧
    exec (.sub a b) s = .next (s.setRsp (some (.ok (a ^^^ b)))) ∧
    reply (.polychk a) s = reply (.polychk a) (s.setInitState .ready) ∧
    exec .init s = .next ((initSequence Config.poly s).setRsp (some (generatorResponse Config.poly))))

/-- R167: an error is not sticky: a command that answers an error changes nothing but the response presented, its word
carries DATA 0x00, and every command after it executes exactly as if it had not been issued. -/
def Obligations.ErrorsAreNotSticky : Prop :=
  ∀ (i : Instr) (s t : State) (k : ErrorKind), i ≠ .init → exec i s = .next t → t.rsp = some (.error k) →
    t = s.setRsp (some (.error k)) ∧ (t.rspWord.map fun w => w.extractLsb' 0 8) = some 0x00#8 ∧
    ∀ j : Instr, exec j t = exec j s

/-- 93_implementation_defined.md section 1 (U1, U9): the only ways a command can stop, in any state whatever: it reads
an existing entry that nothing has written, or it uses the logarithm of a nonzero element whose entry is `UNDEF`. -/
def Obligations.CommandsStopOnlyOnUnbuiltTables : Prop :=
  ∀ (i : Instr) (s : State),
    (∀ f, exec i s = .fault f → ∃ space k, f = .unwrittenEntry space k ∧ k < space.size ∧
      (s.table space).read k = none) ∧
    (∀ r, exec i s = .refused r → ∃ a : Byte, a ≠ 0#8 ∧ r = .undefinedLogarithm a ∧ s.Holds .log a.toNat 0xFF#8)

/-! ## Frames, ordering and the invariant (10_state.md, 20_memory.md) -/

/-- The frame of every command: the requests, `rsp_ready` and the responses taken are unchanged and a response is
presented; every command but INIT leaves `INIT_STATE` and every entry of every table as they were; INIT writes the
tables it derives and nothing else. -/
def Obligations.CommandFrame : Prop :=
  ∀ (i : Instr) (s t : State), exec i s = .next t →
    s.SameRequesters t ∧ t.rsp.isSome = true ∧
    (i ≠ .init → t.initState = s.initState ∧ ∀ (space : Space) (k : Nat), memRead space k t = memRead space k s) ∧
    (i = .init → t.initState = .ready ∧ ∀ (space : Space) (k : Nat),
      memRead space k t = memRead space k (initSequence Config.poly State.reset))

/-- R29: in `READY` with the tables built, every command completes and changes no entry of any table, INIT included. -/
def Obligations.BuiltTablesAreImmutable : Prop :=
  ∀ (i : Instr) (s : State), s.Built → ∃ t, exec i s = .next t ∧ t.Built ∧ s.SameCore t ∧ s.SameRequesters t

/-- 20_memory.md section 7 (a) and 42_field_ops.md section 1: a command's response depends only on its word and on
`INIT_STATE` and the tables; of the tables, MUL, DIV, EXP read `LOG` and `EXP` only, LOGRD `LOG`, EXPRD `EXP`, and
ADD, SUB, POLYCHK none. -/
def Obligations.ReplyDependsOnlyOnTheTables : Prop :=
  (∀ (w : Word) (s s' : State), s.SameCore s' → replyToWord w s' = replyToWord w s) ∧
  (∀ (s : State) (l e m : Memory) (a b : Byte) (n : Nat),
    reply (.mul a b) (s.setMulTab m) = reply (.mul a b) s ∧
    reply (.div a b) (s.setMulTab m) = reply (.div a b) s ∧
    reply (.exp a n) (s.setMulTab m) = reply (.exp a n) s ∧
    reply (.logrd a) ((s.setExpTab e).setMulTab m) = reply (.logrd a) s ∧
    reply (.exprd n) ((s.setLogTab l).setMulTab m) = reply (.exprd n) s ∧
    reply (.add a b) (((s.setLogTab l).setExpTab e).setMulTab m) = reply (.add a b) s ∧
    reply (.sub a b) (((s.setLogTab l).setExpTab e).setMulTab m) = reply (.sub a b) s ∧
    reply (.polychk a) (((s.setLogTab l).setExpTab e).setMulTab m) = reply (.polychk a) s)

/-- 20_memory.md section 7 (c): on the built tables any two commands commute: in either order each is given the same
response, and the state that is left holds the same tables. -/
def Obligations.CommandsCommute : Prop :=
  ∀ (i j : Instr) (s : State), s.Built →
    ∃ t u v x : State, exec i s = .next t ∧ exec j t = .next u ∧ exec j s = .next v ∧ exec i v = .next x ∧
      t.rsp = x.rsp ∧ u.rsp = v.rsp ∧ u.SameCore x

/-- The invariant holds at reset, and after a reset in the middle of any run, from any state whatever
(notes/assumptions/13.md, the model's reading of such a reset). -/
def Obligations.InvariantHoldsAtReset : Prop := State.reset.Inv ∧ ∀ s : State, (resetEvent s).Inv

/-- The invariant is kept by every step: the tables stay canonical, and `INIT_STATE` is `UNBUILT` or the tables are the
ones built from `POLY`; `FAILED` is never entered. -/
def Obligations.StepKeepsTheInvariant : Prop :=
  ∀ s t : State, s.Inv → step s = .next t → t.Inv

/-- 70_reset_and_hazards.md section 3 (every command terminates) and 60_exceptions.md section 1: no run stops: from
every state that meets the invariant, whatever words are presented, the step gives a next state. -/
def Obligations.NoStepStops : Prop :=
  ∀ s : State, s.Inv → ∃ t, step s = .next t

/-- Every step keeps the three tables in canonical form with every listed index in range, in every state whatever, also
in `FAILED` and with tables that no generator run gives. -/
def Obligations.StepKeepsTablesCanonical : Prop :=
  ∀ s t : State, s.TablesCanonical → step s = .next t → t.TablesCanonical
end

