-- ==== Sys2Proof/Laws/Decode.lean ====
section
/-! SUPPORT. The fields of a packed word are the fields packed. -/

namespace Sys2Proof

theorem pack_toNat (op : BitVec 4) (a b : Byte) (n : BitVec 32) :
    (pack op a b n).toNat = op.toNat * 2 ^ 60 + a.toNat * 2 ^ 40 + b.toNat * 2 ^ 32 + n.toNat := by
  have ho := op.isLt
  have ha := a.isLt
  have hb := b.isLt
  have hn := n.isLt
  simp only [pack, BitVec.toNat_append, BitVec.toNat_ofNat]
  rw [← Nat.shiftLeft_add_eq_or_of_lt hn, ← Nat.shiftLeft_add_eq_or_of_lt hb, ← Nat.shiftLeft_add_eq_or_of_lt ha,
    ← Nat.shiftLeft_add_eq_or_of_lt (by norm_num : 0 % 2 ^ 12 < 2 ^ 12)]
  simp only [Nat.shiftLeft_eq]
  omega

theorem opField_pack (op : BitVec 4) (a b : Byte) (n : BitVec 32) : opField (pack op a b n) = op := by
  have ho := op.isLt
  have ha := a.isLt
  have hb := b.isLt
  have hn := n.isLt
  apply BitVec.eq_of_toNat_eq
  simp only [opField, BitVec.extractLsb'_toNat, pack_toNat, Nat.shiftRight_eq_div_pow]
  omega

theorem rsvField_pack (op : BitVec 4) (a b : Byte) (n : BitVec 32) : rsvField (pack op a b n) = 0#12 := by
  have ho := op.isLt
  have ha := a.isLt
  have hb := b.isLt
  have hn := n.isLt
  apply BitVec.eq_of_toNat_eq
  simp only [rsvField, BitVec.extractLsb'_toNat, pack_toNat, Nat.shiftRight_eq_div_pow, BitVec.toNat_ofNat]
  omega

theorem aField_pack (op : BitVec 4) (a b : Byte) (n : BitVec 32) : aField (pack op a b n) = a := by
  have ho := op.isLt
  have ha := a.isLt
  have hb := b.isLt
  have hn := n.isLt
  apply BitVec.eq_of_toNat_eq
  simp only [aField, BitVec.extractLsb'_toNat, pack_toNat, Nat.shiftRight_eq_div_pow]
  omega

theorem bField_pack (op : BitVec 4) (a b : Byte) (n : BitVec 32) : bField (pack op a b n) = b := by
  have ho := op.isLt
  have ha := a.isLt
  have hb := b.isLt
  have hn := n.isLt
  apply BitVec.eq_of_toNat_eq
  simp only [bField, BitVec.extractLsb'_toNat, pack_toNat, Nat.shiftRight_eq_div_pow]
  omega

theorem nField_pack (op : BitVec 4) (a b : Byte) (n : BitVec 32) : nField (pack op a b n) = n.toNat := by
  have ho := op.isLt
  have ha := a.isLt
  have hb := b.isLt
  have hn := n.isLt
  simp only [nField, BitVec.extractLsb'_toNat, pack_toNat, Nat.shiftRight_eq_div_pow]
  omega

end Sys2Proof
end

