-- ==== Sys2Proof/Laws/Memory.lean ====
section
/-! SUPPORT. The laws of table memories: reading after writing, and that every operation keeps the canonical form and
the range of indices. -/

namespace Sys2Proof.Machine

/-! ## Reading -/

@[simp] theorem Memory.read_nil (i : Nat) : Memory.read [] i = none := rfl

@[simp] theorem Memory.read_cons (k : Nat) (v : Byte) (m : Memory) (i : Nat) :
    Memory.read ((k, v) :: m) i = if k = i then some v else Memory.read m i := rfl

theorem Memory.read_write_same (m : Memory) (i : Nat) (v : Byte) : (m.write i v).read i = some v := by
  induction m with
  | nil => simp [Memory.write]
  | cons c m ih =>
    obtain ⟨k, w⟩ := c
    simp only [Memory.write]
    split
    · simp
    · split
      · simp
      · rename_i h
        simp [Ne.symm h, ih]

theorem Memory.read_write_other (m : Memory) {i j : Nat} (v : Byte) (h : i ≠ j) :
    (m.write i v).read j = m.read j := by
  induction m with
  | nil => simp [Memory.write, h]
  | cons c m ih =>
    obtain ⟨k, w⟩ := c
    simp only [Memory.write]
    split
    · simp [h]
    · split
      · rename_i h'
        simp [h, ← h']
      · simp [ih]

theorem Memory.read_write (m : Memory) (i j : Nat) (v : Byte) :
    (m.write i v).read j = if i = j then some v else m.read j := by
  split
  · rename_i h
    rw [← h, Memory.read_write_same]
  · rename_i h
    exact Memory.read_write_other m v h

theorem Memory.read_tabulateFrom (f : Nat → Byte) (start n i : Nat) :
    (Memory.tabulateFrom f start n).read i = if start ≤ i ∧ i < start + n then some (f i) else none := by
  induction n generalizing start with
  | zero => simp [Memory.tabulateFrom]
  | succ n ih =>
    simp only [Memory.tabulateFrom, Memory.read_cons, ih]
    by_cases h : start = i
    · subst h
      simp
    · simp only [h, if_false]
      congr 1
      simp only [eq_iff_iff]
      omega

/-- Entry `i` of a tabulated table of `n` entries is `f i`. -/
theorem Memory.read_tabulate (f : Nat → Byte) (n i : Nat) :
    (Memory.tabulate f n).read i = if i < n then some (f i) else none := by
  simp [Memory.tabulate, Memory.read_tabulateFrom]

theorem Memory.read_ofBytesFrom (l : List Nat) (start i : Nat) :
    (Memory.ofBytesFrom start l).read i =
      if start ≤ i then (l[i - start]?).map (BitVec.ofNat 8) else none := by
  induction l generalizing start with
  | nil => simp [Memory.ofBytesFrom]
  | cons v l ih =>
    simp only [Memory.ofBytesFrom, Memory.read_cons, ih]
    by_cases h : start = i
    · subst h
      simp
    · by_cases h' : start ≤ i
      · have h₁ : start + 1 ≤ i := by omega
        have h₂ : i - start = (i - (start + 1)) + 1 := by omega
        simp [h, h', h₁, h₂]
      · have h₁ : ¬ start + 1 ≤ i := by omega
        simp [h, h', h₁]

/-! ## The canonical form -/

theorem Memory.mem_write {m : Memory} {i : Nat} {v : Byte} {c : Host.Cell} (h : c ∈ m.write i v) :
    c = (i, v) ∨ c ∈ m := by
  induction m with
  | nil => simpa [Memory.write] using h
  | cons d m ih =>
    obtain ⟨k, w⟩ := d
    simp only [Memory.write] at h
    split at h
    · simpa using h
    · split at h
      · rcases List.mem_cons.1 h with h | h
        · exact .inl h
        · exact .inr (List.mem_cons_of_mem _ h)
      · rcases List.mem_cons.1 h with h | h
        · exact .inr (h ▸ List.mem_cons_self)
        · exact (ih h).imp id (List.mem_cons_of_mem _)

theorem Memory.wf_cons {k : Nat} {v : Byte} {m : Memory} :
    Memory.wf ((k, v) :: m) ↔ (∀ c ∈ m, k < c.1) ∧ Memory.wf m := by
  simp [Memory.wf, List.pairwise_cons]

/-- A write keeps the canonical form. -/
theorem Memory.wf_write {m : Memory} (h : m.wf) (i : Nat) (v : Byte) : (m.write i v).wf := by
  induction m with
  | nil => simp [Memory.write, Memory.wf]
  | cons c m ih =>
    obtain ⟨k, w⟩ := c
    obtain ⟨h₁, h₂⟩ := Memory.wf_cons.1 h
    simp only [Memory.write]
    split
    · rename_i hlt
      refine Memory.wf_cons.2 ⟨fun c hc => ?_, h⟩
      rcases List.mem_cons.1 hc with rfl | hc
      · exact hlt
      · exact hlt.trans (h₁ c hc)
    · split
      · rename_i heq
        exact Memory.wf_cons.2 ⟨fun c hc => heq ▸ h₁ c hc, h₂⟩
      · refine Memory.wf_cons.2 ⟨fun c hc => ?_, ih h₂⟩
        rcases Memory.mem_write hc with rfl | hc
        · simp only
          omega
        · exact h₁ c hc

theorem Memory.mem_tabulateFrom {f : Nat → Byte} {start n : Nat} {c : Host.Cell}
    (h : c ∈ Memory.tabulateFrom f start n) : start ≤ c.1 ∧ c.1 < start + n := by
  induction n generalizing start with
  | zero => simp [Memory.tabulateFrom] at h
  | succ n ih =>
    rcases List.mem_cons.1 h with rfl | h
    · simp
    · have := ih h
      omega

theorem Memory.wf_tabulateFrom (f : Nat → Byte) (start n : Nat) : (Memory.tabulateFrom f start n).wf := by
  induction n generalizing start with
  | zero => simp [Memory.tabulateFrom, Memory.wf]
  | succ n ih =>
    refine Memory.wf_cons.2 ⟨fun c hc => ?_, ih (start + 1)⟩
    have := Memory.mem_tabulateFrom hc
    omega

/-- A tabulated table is in canonical form, and its indices are those below its length. -/
theorem Memory.wf_tabulate (f : Nat → Byte) (n : Nat) : (Memory.tabulate f n).wf := Memory.wf_tabulateFrom f 0 n

theorem Memory.mem_tabulate {f : Nat → Byte} {n : Nat} {c : Host.Cell} (h : c ∈ Memory.tabulate f n) : c.1 < n := by
  simpa using (Memory.mem_tabulateFrom h).2

theorem Memory.mem_ofBytesFrom {l : List Nat} {start : Nat} {c : Host.Cell}
    (h : c ∈ Memory.ofBytesFrom start l) : start ≤ c.1 ∧ c.1 < start + l.length := by
  induction l generalizing start with
  | nil => simp [Memory.ofBytesFrom] at h
  | cons v l ih =>
    rcases List.mem_cons.1 h with rfl | h
    · simp
    · have := ih h
      simp only [List.length_cons]
      omega

theorem Memory.wf_ofBytesFrom (l : List Nat) (start : Nat) : (Memory.ofBytesFrom start l).wf := by
  induction l generalizing start with
  | nil => simp [Memory.ofBytesFrom, Memory.wf]
  | cons v l ih =>
    refine Memory.wf_cons.2 ⟨fun c hc => ?_, ih (start + 1)⟩
    have := Memory.mem_ofBytesFrom hc
    omega

theorem State.reset_tables_wf (space : Space) : (State.reset.table space).wf := by
  cases space <;> simp [State.reset, State.table, Memory.wf]

/-! ## The stored form of a log entry -/

theorem LogEntry.ofByte_toByte_undef : LogEntry.ofByte LogEntry.undef.toByte = .undef := by decide

theorem LogEntry.ofByte_toByte_log {l : Nat} (h : l < 255) :
    LogEntry.ofByte (LogEntry.log l).toByte = .log l := by
  have h₁ : BitVec.ofNat 8 l ≠ 0xFF#8 := by
    intro h'
    have := congrArg BitVec.toNat h'
    simp [BitVec.toNat_ofNat] at this
    omega
  simp only [LogEntry.toByte, LogEntry.ofByte, if_neg h₁, BitVec.toNat_ofNat]
  congr 1
  omega

/-- A stored byte is what its log entry is stored as. -/
@[simp] theorem LogEntry.toByte_ofByte (b : Byte) : (LogEntry.ofByte b).toByte = b := by
  simp only [LogEntry.ofByte]
  split
  · rename_i h
    exact h.symm
  · simp [LogEntry.toByte]

/-- A logarithm read from a stored byte is at most 254 (00_scope.md R5). -/
theorem LogEntry.ofByte_log_lt {b : Byte} {l : Nat} (h : LogEntry.ofByte b = .log l) : l < 255 := by
  simp only [LogEntry.ofByte] at h
  split at h
  · cases h
  · rename_i h'
    injection h with h
    have h₁ : b.toNat ≠ 255 := fun h₂ => h' (BitVec.eq_of_toNat_eq (by simpa using h₂))
    have := b.isLt
    omega

/-! ## The generators keep the canonical form -/

theorem logLoop_keeps {p : Byte} (n log : Nat) (b : Byte) {m t : Memory}
    (h : logLoop p n log b m = .ok t) (hwf : m.wf) (hlt : ∀ c ∈ m, c.1 < 256) :
    t.wf ∧ ∀ c ∈ t, c.1 < 256 := by
  induction n generalizing log b m with
  | zero =>
    injection h with h
    exact h ▸ ⟨hwf, hlt⟩
  | succ n ih =>
    simp only [logLoop] at h
    split at h
    · refine ih _ _ h (Memory.wf_write hwf _ _) fun c hc => ?_
      rcases Memory.mem_write hc with rfl | hc
      · exact b.isLt
      · exact hlt c hc
    · cases h
    · cases h

/-- The log table a run returns is canonical, with indices 0 to 255. -/
theorem generateLogTable_canonical {p : Byte} {t : Memory} (h : generateLogTable p = .ok t) :
    t.wf ∧ ∀ c ∈ t, c.1 < 256 :=
  logLoop_keeps _ _ _ h (Memory.wf_tabulate _ _) fun _ hc => Memory.mem_tabulate hc

theorem expLoop_keeps (log : Memory) (n i : Nat) {m : Memory} (hwf : m.wf) (hlt : ∀ c ∈ m, c.1 < 510) :
    (expLoop log n i m).wf ∧ ∀ c ∈ expLoop log n i m, c.1 < 510 := by
  induction n generalizing i m with
  | zero => exact ⟨hwf, hlt⟩
  | succ n ih =>
    simp only [expLoop]
    split
    · rename_i l hl
      have hl255 : l < 255 := by
        cases hr : log.read i with
        | none => simp [hr] at hl
        | some v =>
          simp only [hr, Option.map_some, Option.some.injEq] at hl
          exact LogEntry.ofByte_log_lt hl
      refine ih _ (Memory.wf_write (Memory.wf_write hwf _ _) _ _) fun c hc => ?_
      rcases Memory.mem_write hc with rfl | hc
      · simp only [Config.expOffset]
        omega
      · rcases Memory.mem_write hc with rfl | hc
        · simp only
          omega
        · exact hlt c hc
    · exact ih _ hwf hlt
    · exact ih _ hwf hlt

/-- The exponent table of any log table is canonical, with indices 0 to 509. -/
theorem generateExpTable_canonical (log : Memory) :
    (generateExpTable log).wf ∧ ∀ c ∈ generateExpTable log, c.1 < 510 :=
  expLoop_keeps log _ _ (by simp [Memory.wf]) (by simp)

end Sys2Proof.Machine
end

