-- ==== Sys2Proof/Laws/State.lean ====
section
/-! SUPPORT. One lemma per field per update of the state, so that no proof unfolds a record update; the
same for a reset in mid-run. -/

namespace Sys2Proof.Machine

@[simp] theorem State.setInitState_initState (s : State) (v : InitState) : (s.setInitState v).initState = v := rfl
@[simp] theorem State.setInitState_logTab (s : State) (v : InitState) : (s.setInitState v).logTab = s.logTab := rfl
@[simp] theorem State.setInitState_expTab (s : State) (v : InitState) : (s.setInitState v).expTab = s.expTab := rfl
@[simp] theorem State.setInitState_mulTab (s : State) (v : InitState) : (s.setInitState v).mulTab = s.mulTab := rfl
@[simp] theorem State.setInitState_requests (s : State) (v : InitState) : (s.setInitState v).requests = s.requests := rfl
@[simp] theorem State.setInitState_rsp (s : State) (v : InitState) : (s.setInitState v).rsp = s.rsp := rfl
@[simp] theorem State.setInitState_rspReady (s : State) (v : InitState) : (s.setInitState v).rspReady = s.rspReady := rfl
@[simp] theorem State.setInitState_delivered (s : State) (v : InitState) : (s.setInitState v).delivered = s.delivered := rfl

@[simp] theorem State.setLogTab_initState (s : State) (m : Memory) : (s.setLogTab m).initState = s.initState := rfl
@[simp] theorem State.setLogTab_logTab (s : State) (m : Memory) : (s.setLogTab m).logTab = m := rfl
@[simp] theorem State.setLogTab_expTab (s : State) (m : Memory) : (s.setLogTab m).expTab = s.expTab := rfl
@[simp] theorem State.setLogTab_mulTab (s : State) (m : Memory) : (s.setLogTab m).mulTab = s.mulTab := rfl
@[simp] theorem State.setLogTab_requests (s : State) (m : Memory) : (s.setLogTab m).requests = s.requests := rfl
@[simp] theorem State.setLogTab_rsp (s : State) (m : Memory) : (s.setLogTab m).rsp = s.rsp := rfl
@[simp] theorem State.setLogTab_rspReady (s : State) (m : Memory) : (s.setLogTab m).rspReady = s.rspReady := rfl
@[simp] theorem State.setLogTab_delivered (s : State) (m : Memory) : (s.setLogTab m).delivered = s.delivered := rfl

@[simp] theorem State.setExpTab_initState (s : State) (m : Memory) : (s.setExpTab m).initState = s.initState := rfl
@[simp] theorem State.setExpTab_logTab (s : State) (m : Memory) : (s.setExpTab m).logTab = s.logTab := rfl
@[simp] theorem State.setExpTab_expTab (s : State) (m : Memory) : (s.setExpTab m).expTab = m := rfl
@[simp] theorem State.setExpTab_mulTab (s : State) (m : Memory) : (s.setExpTab m).mulTab = s.mulTab := rfl
@[simp] theorem State.setExpTab_requests (s : State) (m : Memory) : (s.setExpTab m).requests = s.requests := rfl
@[simp] theorem State.setExpTab_rsp (s : State) (m : Memory) : (s.setExpTab m).rsp = s.rsp := rfl
@[simp] theorem State.setExpTab_rspReady (s : State) (m : Memory) : (s.setExpTab m).rspReady = s.rspReady := rfl
@[simp] theorem State.setExpTab_delivered (s : State) (m : Memory) : (s.setExpTab m).delivered = s.delivered := rfl

@[simp] theorem State.setMulTab_initState (s : State) (m : Memory) : (s.setMulTab m).initState = s.initState := rfl
@[simp] theorem State.setMulTab_logTab (s : State) (m : Memory) : (s.setMulTab m).logTab = s.logTab := rfl
@[simp] theorem State.setMulTab_expTab (s : State) (m : Memory) : (s.setMulTab m).expTab = s.expTab := rfl
@[simp] theorem State.setMulTab_mulTab (s : State) (m : Memory) : (s.setMulTab m).mulTab = m := rfl
@[simp] theorem State.setMulTab_requests (s : State) (m : Memory) : (s.setMulTab m).requests = s.requests := rfl
@[simp] theorem State.setMulTab_rsp (s : State) (m : Memory) : (s.setMulTab m).rsp = s.rsp := rfl
@[simp] theorem State.setMulTab_rspReady (s : State) (m : Memory) : (s.setMulTab m).rspReady = s.rspReady := rfl
@[simp] theorem State.setMulTab_delivered (s : State) (m : Memory) : (s.setMulTab m).delivered = s.delivered := rfl

@[simp] theorem State.setRequests_initState (s : State) (ws : List Word) : (s.setRequests ws).initState = s.initState := rfl
@[simp] theorem State.setRequests_logTab (s : State) (ws : List Word) : (s.setRequests ws).logTab = s.logTab := rfl
@[simp] theorem State.setRequests_expTab (s : State) (ws : List Word) : (s.setRequests ws).expTab = s.expTab := rfl
@[simp] theorem State.setRequests_mulTab (s : State) (ws : List Word) : (s.setRequests ws).mulTab = s.mulTab := rfl
@[simp] theorem State.setRequests_requests (s : State) (ws : List Word) : (s.setRequests ws).requests = ws := rfl
@[simp] theorem State.setRequests_rsp (s : State) (ws : List Word) : (s.setRequests ws).rsp = s.rsp := rfl
@[simp] theorem State.setRequests_rspReady (s : State) (ws : List Word) : (s.setRequests ws).rspReady = s.rspReady := rfl
@[simp] theorem State.setRequests_delivered (s : State) (ws : List Word) : (s.setRequests ws).delivered = s.delivered := rfl

@[simp] theorem State.setRsp_initState (s : State) (r : Option Response) : (s.setRsp r).initState = s.initState := rfl
@[simp] theorem State.setRsp_logTab (s : State) (r : Option Response) : (s.setRsp r).logTab = s.logTab := rfl
@[simp] theorem State.setRsp_expTab (s : State) (r : Option Response) : (s.setRsp r).expTab = s.expTab := rfl
@[simp] theorem State.setRsp_mulTab (s : State) (r : Option Response) : (s.setRsp r).mulTab = s.mulTab := rfl
@[simp] theorem State.setRsp_requests (s : State) (r : Option Response) : (s.setRsp r).requests = s.requests := rfl
@[simp] theorem State.setRsp_rsp (s : State) (r : Option Response) : (s.setRsp r).rsp = r := rfl
@[simp] theorem State.setRsp_rspReady (s : State) (r : Option Response) : (s.setRsp r).rspReady = s.rspReady := rfl
@[simp] theorem State.setRsp_delivered (s : State) (r : Option Response) : (s.setRsp r).delivered = s.delivered := rfl

@[simp] theorem State.setRspReady_initState (s : State) (v : Bool) : (s.setRspReady v).initState = s.initState := rfl
@[simp] theorem State.setRspReady_logTab (s : State) (v : Bool) : (s.setRspReady v).logTab = s.logTab := rfl
@[simp] theorem State.setRspReady_expTab (s : State) (v : Bool) : (s.setRspReady v).expTab = s.expTab := rfl
@[simp] theorem State.setRspReady_mulTab (s : State) (v : Bool) : (s.setRspReady v).mulTab = s.mulTab := rfl
@[simp] theorem State.setRspReady_requests (s : State) (v : Bool) : (s.setRspReady v).requests = s.requests := rfl
@[simp] theorem State.setRspReady_rsp (s : State) (v : Bool) : (s.setRspReady v).rsp = s.rsp := rfl
@[simp] theorem State.setRspReady_rspReady (s : State) (v : Bool) : (s.setRspReady v).rspReady = v := rfl
@[simp] theorem State.setRspReady_delivered (s : State) (v : Bool) : (s.setRspReady v).delivered = s.delivered := rfl

@[simp] theorem State.setDelivered_initState (s : State) (rs : List Response) : (s.setDelivered rs).initState = s.initState := rfl
@[simp] theorem State.setDelivered_logTab (s : State) (rs : List Response) : (s.setDelivered rs).logTab = s.logTab := rfl
@[simp] theorem State.setDelivered_expTab (s : State) (rs : List Response) : (s.setDelivered rs).expTab = s.expTab := rfl
@[simp] theorem State.setDelivered_mulTab (s : State) (rs : List Response) : (s.setDelivered rs).mulTab = s.mulTab := rfl
@[simp] theorem State.setDelivered_requests (s : State) (rs : List Response) : (s.setDelivered rs).requests = s.requests := rfl
@[simp] theorem State.setDelivered_rsp (s : State) (rs : List Response) : (s.setDelivered rs).rsp = s.rsp := rfl
@[simp] theorem State.setDelivered_rspReady (s : State) (rs : List Response) : (s.setDelivered rs).rspReady = s.rspReady := rfl
@[simp] theorem State.setDelivered_delivered (s : State) (rs : List Response) : (s.setDelivered rs).delivered = rs := rfl

@[simp] theorem State.setInitState_self (s : State) : s.setInitState s.initState = s := rfl
@[simp] theorem State.setInitState_twice (s : State) (v v' : InitState) : (s.setInitState v).setInitState v' = s.setInitState v' := rfl
@[simp] theorem State.setLogTab_self (s : State) : s.setLogTab s.logTab = s := rfl
@[simp] theorem State.setLogTab_twice (s : State) (m m' : Memory) : (s.setLogTab m).setLogTab m' = s.setLogTab m' := rfl
@[simp] theorem State.setExpTab_self (s : State) : s.setExpTab s.expTab = s := rfl
@[simp] theorem State.setExpTab_twice (s : State) (m m' : Memory) : (s.setExpTab m).setExpTab m' = s.setExpTab m' := rfl
@[simp] theorem State.setMulTab_self (s : State) : s.setMulTab s.mulTab = s := rfl
@[simp] theorem State.setMulTab_twice (s : State) (m m' : Memory) : (s.setMulTab m).setMulTab m' = s.setMulTab m' := rfl
@[simp] theorem State.setRequests_self (s : State) : s.setRequests s.requests = s := rfl
@[simp] theorem State.setRequests_twice (s : State) (ws ws' : List Word) : (s.setRequests ws).setRequests ws' = s.setRequests ws' := rfl
@[simp] theorem State.setRsp_self (s : State) : s.setRsp s.rsp = s := rfl
@[simp] theorem State.setRsp_twice (s : State) (r r' : Option Response) : (s.setRsp r).setRsp r' = s.setRsp r' := rfl
@[simp] theorem State.setRspReady_self (s : State) : s.setRspReady s.rspReady = s := rfl
@[simp] theorem State.setRspReady_twice (s : State) (v v' : Bool) : (s.setRspReady v).setRspReady v' = s.setRspReady v' := rfl
@[simp] theorem State.setDelivered_self (s : State) : s.setDelivered s.delivered = s := rfl
@[simp] theorem State.setDelivered_twice (s : State) (rs rs' : List Response) : (s.setDelivered rs).setDelivered rs' = s.setDelivered rs' := rfl

@[simp] theorem State.table_log (s : State) : s.table .log = s.logTab := rfl
@[simp] theorem State.table_exp (s : State) : s.table .exp = s.expTab := rfl
@[simp] theorem State.table_mulTab (s : State) : s.table .mulTab = s.mulTab := rfl

@[simp] theorem State.setInitState_table (s : State) (v : InitState) (sp : Space) :
    (s.setInitState v).table sp = s.table sp := by
  cases sp <;> rfl
@[simp] theorem State.setRequests_table (s : State) (ws : List Word) (sp : Space) :
    (s.setRequests ws).table sp = s.table sp := by
  cases sp <;> rfl
@[simp] theorem State.setRsp_table (s : State) (r : Option Response) (sp : Space) :
    (s.setRsp r).table sp = s.table sp := by
  cases sp <;> rfl
@[simp] theorem State.setRspReady_table (s : State) (v : Bool) (sp : Space) :
    (s.setRspReady v).table sp = s.table sp := by
  cases sp <;> rfl
@[simp] theorem State.setDelivered_table (s : State) (rs : List Response) (sp : Space) :
    (s.setDelivered rs).table sp = s.table sp := by
  cases sp <;> rfl

/-! A reset in mid-run (notes/assumptions/13.md): the core as after reset, what is outside it kept. -/

@[simp] theorem resetEvent_initState (s : State) : (resetEvent s).initState = .unbuilt := rfl
@[simp] theorem resetEvent_rsp (s : State) : (resetEvent s).rsp = none := rfl
@[simp] theorem resetEvent_requests (s : State) : (resetEvent s).requests = s.requests := rfl
@[simp] theorem resetEvent_rspReady (s : State) : (resetEvent s).rspReady = s.rspReady := rfl
@[simp] theorem resetEvent_delivered (s : State) : (resetEvent s).delivered = s.delivered := rfl
@[simp] theorem resetEvent_table (s : State) (sp : Space) : (resetEvent s).table sp = [] := by
  cases sp <;> rfl
@[simp] theorem resetEvent_reset : resetEvent State.reset = State.reset := rfl

end Sys2Proof.Machine
end

