-- ==== Sys2Proof/Laws/Ops.lean ====
section
/-! SUPPORT. What each shared operation can do, said once: reading an entry, ending a command, the INIT sequence, and
the events at the port. -/

namespace Sys2Proof.Machine

/-! ## Going on with a value -/

@[simp] theorem andThen_next {α β : Type} (a : α) (f : α → Access β) : andThen (.next a) f = f a := rfl

@[simp] theorem andThen_fault {α β : Type} (r : Fault) (f : α → Access β) :
    andThen (.fault r : Access α) f = .fault r := rfl

@[simp] theorem andThen_refused {α β : Type} (r : Refusal) (f : α → Access β) :
    andThen (.refused r : Access α) f = .refused r := rfl

/-- A computation that gives a value got one at each of its parts. -/
theorem andThen_eq_next {α β : Type} {x : Access α} {f : α → Access β} {b : β} (h : andThen x f = .next b) :
    ∃ a, x = .next a ∧ f a = .next b := by
  cases x with
  | next a => exact ⟨a, rfl, h⟩
  | fault r => simp at h
  | refused r => simp at h

/-! ## Reading an entry -/

/-- What `memRead` can do: give the entry, fault on an index that does not exist, or fault on an entry that nothing has
written. -/
theorem memRead_cases (space : Space) (i : Nat) (s : State) :
    (i < space.size ∧ ∃ v, (s.table space).read i = some v ∧ memRead space i s = .next v) ∨
    (space.size ≤ i ∧ memRead space i s = .fault (.noSuchEntry space i)) ∨
    (i < space.size ∧ (s.table space).read i = none ∧ memRead space i s = .fault (.unwrittenEntry space i)) := by
  simp only [memRead]
  by_cases h : i < space.size
  · cases hr : (s.table space).read i with
    | some v => exact .inl ⟨h, v, rfl, by simp [h]⟩
    | none => exact .inr (.inr ⟨h, rfl, by simp [h]⟩)
  · exact .inr (.inl ⟨by omega, by simp [h]⟩)

theorem memRead_eq_next {space : Space} {i : Nat} {s : State} {v : Byte} :
    memRead space i s = .next v ↔ i < space.size ∧ (s.table space).read i = some v := by
  rcases memRead_cases space i s with ⟨h, w, hr, he⟩ | ⟨h, he⟩ | ⟨h, hr, he⟩
  · simp [he, hr, h]
  · simp [he]
    omega
  · simp [he, hr]

/-- Reading depends on the table alone. -/
theorem memRead_congr {space : Space} {i : Nat} {s t : State} (h : s.table space = t.table space) :
    memRead space i s = memRead space i t := by
  simp only [memRead, h]

@[simp] theorem memRead_setRsp (space : Space) (i : Nat) (s : State) (r : Option Response) :
    memRead space i (s.setRsp r) = memRead space i s := memRead_congr (by simp)

@[simp] theorem memRead_setRequests (space : Space) (i : Nat) (s : State) (ws : List Word) :
    memRead space i (s.setRequests ws) = memRead space i s := memRead_congr (by simp)

@[simp] theorem memRead_setInitState (space : Space) (i : Nat) (s : State) (v : InitState) :
    memRead space i (s.setInitState v) = memRead space i s := memRead_congr (by simp)

/-! ## Ending a command -/

@[simp] theorem respond_eq (r : Response) (s : State) : respond r s = .next (s.setRsp (some r)) := rfl

/-- If `answer` gives a next state, it is the old one with a response presented. -/
theorem answer_eq_next {x : Access Response} {s t : State} (h : answer x s = .next t) :
    ∃ r, x = .next r ∧ t = s.setRsp (some r) := by
  obtain ⟨r, hx, hr⟩ := andThen_eq_next h
  injection hr with hr
  exact ⟨r, hx, hr.symm⟩

/-- If a command that reads a table gives a next state, it is the old one with a response presented. -/
theorem withTables_eq_next {x : Access Response} {s t : State} (h : withTables s x = .next t) :
    ∃ r, t = s.setRsp (some r) ∧ (s.initState = .failed ∧ r = .error .invalidPolynomial ∨
      s.initState ≠ .failed ∧ x = .next r) := by
  simp only [withTables] at h
  split at h
  · rename_i hf
    injection h with h
    exact ⟨_, h.symm, .inl ⟨hf, rfl⟩⟩
  · rename_i hu
    obtain ⟨r, hx, ht⟩ := answer_eq_next h
    exact ⟨r, ht, .inr ⟨by simp [hu], hx⟩⟩
  · rename_i hr
    obtain ⟨r, hx, ht⟩ := answer_eq_next h
    exact ⟨r, ht, .inr ⟨by simp [hr], hx⟩⟩

theorem withTables_failed {s : State} (h : s.initState = .failed) (x : Access Response) :
    withTables s x = .next (s.setRsp (some (.error .invalidPolynomial))) := by
  simp [withTables, h]

theorem withTables_ready {s : State} (h : s.initState = .ready) (x : Access Response) :
    withTables s x = answer x s := by
  simp [withTables, h]

theorem withTables_next {s : State} (h : s.initState = .ready) (r : Response) :
    withTables s (.next r) = .next (s.setRsp (some r)) := by
  simp [withTables, h, answer]

/-- Every command but INIT, if it completes, presents a response and changes nothing else. -/
theorem exec_eq_next {i : Instr} {s t : State} (hi : i ≠ .init) (h : exec i s = .next t) :
    ∃ r, t = s.setRsp (some r) := by
  cases i with
  | init => exact absurd rfl hi
  | add a b => injection h with h; exact ⟨_, h.symm⟩
  | sub a b => injection h with h; exact ⟨_, h.symm⟩
  | polychk p => injection h with h; exact ⟨_, h.symm⟩
  | mul a b => exact (withTables_eq_next h).imp fun _ => And.left
  | div a b => exact (withTables_eq_next h).imp fun _ => And.left
  | exp a n => exact (withTables_eq_next h).imp fun _ => And.left
  | logrd a => exact (withTables_eq_next h).imp fun _ => And.left
  | exprd k => exact (withTables_eq_next h).imp fun _ => And.left
  | mulrd a b => exact (withTables_eq_next h).imp fun _ => And.left

/-! ## The INIT sequence -/

theorem initSequence_error {p : Byte} {k : ErrorKind} (h : generateLogTable p = .error k) (s : State) :
    initSequence p s = s.setInitState .failed := by
  unfold initSequence
  rw [h]

theorem initSequence_ok {p : Byte} {t : Memory} (h : generateLogTable p = .ok t) (s : State) :
    initSequence p s =
      (((s.setLogTab t).setExpTab (generateExpTable t)).setMulTab
        (generateMultiplicationTable ((s.setLogTab t).setExpTab (generateExpTable t)))).setInitState .ready := by
  unfold initSequence
  rw [h]
  dsimp only [State.setLogTab_logTab]

/-- What the INIT sequence can do: fail, which sets `FAILED` and writes no table, or build all three tables. -/
theorem initSequence_cases (p : Byte) (s : State) :
    (∃ k, generateLogTable p = .error k ∧ initSequence p s = s.setInitState .failed) ∨
    (∃ t, generateLogTable p = .ok t ∧
      initSequence p s =
        (((s.setLogTab t).setExpTab (generateExpTable t)).setMulTab
          (generateMultiplicationTable ((s.setLogTab t).setExpTab (generateExpTable t)))).setInitState .ready) := by
  rcases h : generateLogTable p with k | t
  · exact .inl ⟨k, rfl, initSequence_error h s⟩
  · exact .inr ⟨t, rfl, initSequence_ok h s⟩

/-- The builder reads `LOG` and `EXP` only. -/
theorem multiply_congr {a b : Byte} {s t : State} (hl : s.logTab = t.logTab) (he : s.expTab = t.expTab) :
    multiply a b s = multiply a b t := by
  have h₁ : ∀ i, memRead .log i s = memRead .log i t := fun i => memRead_congr (by simpa using hl)
  have h₂ : ∀ i, memRead .exp i s = memRead .exp i t := fun i => memRead_congr (by simpa using he)
  simp only [multiply, logarithm, logLookup, expLookup, h₁, h₂]

theorem generateMultiplicationTable_congr {s t : State} (hl : s.logTab = t.logTab) (he : s.expTab = t.expTab) :
    generateMultiplicationTable s = generateMultiplicationTable t := by
  simp only [generateMultiplicationTable, productByte, multiply_congr hl he]

/-- Entry `i` of the built multiplication table, without unfolding the table. -/
theorem read_generateMultiplicationTable (s : State) {i : Nat} (h : i < 65536) :
    (generateMultiplicationTable s).read i =
      some (productByte (BitVec.ofNat 8 (i / 256)) (BitVec.ofNat 8 (i % 256)) s) := by
  unfold generateMultiplicationTable
  rw [Memory.read_tabulate, if_pos (by simpa only [Config.mulRows, Config.mulCols] using h)]

/-- The built multiplication table is canonical, with indices 0 to 65535. -/
theorem generateMultiplicationTable_canonical (s : State) :
    (generateMultiplicationTable s).wf ∧ ∀ c ∈ generateMultiplicationTable s, c.1 < Space.mulTab.size := by
  unfold generateMultiplicationTable
  exact ⟨Memory.wf_tabulate _ _, fun _ hc => Memory.mem_tabulate hc⟩

/-- The INIT sequence keeps the canonical form of every table, whether it succeeds or fails. -/
theorem initSequence_table_canonical (p : Byte) {s : State}
    (h : ∀ space : Space, (s.table space).wf ∧ ∀ c ∈ s.table space, c.1 < space.size) (space : Space) :
    ((initSequence p s).table space).wf ∧ ∀ c ∈ (initSequence p s).table space, c.1 < space.size := by
  rcases initSequence_cases p s with ⟨k, -, he⟩ | ⟨t, ht, he⟩
  · rw [he, State.setInitState_table]
    exact h space
  · rw [he, State.setInitState_table]
    cases space with
    | log => exact generateLogTable_canonical ht
    | exp => exact generateExpTable_canonical t
    | mulTab => exact generateMultiplicationTable_canonical _

/-! ## The port -/

/-- The five things a step can do, with the states it does them in. -/
theorem portEvent_cases (s : State) :
    (s.initState = .unbuilt ∧ portEvent s = .initialise) ∨
    (s.initState ≠ .unbuilt ∧ ∃ r, s.rsp = some r ∧ s.rspReady = true ∧ portEvent s = .deliver r) ∨
    (s.initState ≠ .unbuilt ∧ s.rsp ≠ none ∧ s.rspReady = false ∧ portEvent s = .wait) ∨
    (s.initState ≠ .unbuilt ∧ s.rsp = none ∧ s.requests = [] ∧ portEvent s = .idle) ∨
    (s.initState ≠ .unbuilt ∧ s.rsp = none ∧ ∃ w rest, s.requests = w :: rest ∧ portEvent s = .accept w rest) := by
  obtain ⟨i, lt, et, mt, reqs, rsp, rdy, del⟩ := s
  cases i <;> cases rsp <;> cases rdy <;> cases reqs <;> simp [portEvent]

theorem step_accept {s : State} {w : Word} {rest : List Word} (hs : s.initState ≠ .unbuilt) (hr : s.rsp = none)
    (hw : s.requests = w :: rest) :
    step s = match decode w with
      | .ok i => exec i (s.setRequests rest)
      | .error _ => .next ((s.setRequests rest).setRsp (some (.error .illegalCommand))) := by
  have hp : portEvent s = .accept w rest := by
    obtain ⟨i, lt, et, mt, reqs, rsp, rdy, del⟩ := s
    simp only at hr hw
    subst hr hw
    cases i <;> simp_all [portEvent]
  simp only [step, hp]
  rfl

end Sys2Proof.Machine
end

