-- ==== Sys2Proof/Laws/Shipped.lean ====
section
/-! SUPPORT. The generator on the shipped polynomial 29 gives the listed tables, so `loadShipped` is what the INIT
sequence leaves. -/

namespace Sys2Proof.Machine

set_option maxRecDepth 8000 in
/-- `generateLogTable(29)` returns the table of 95_test_vectors.md section 2, by evaluation. -/
theorem generateLogTable_shipped : (generateLogTable Config.poly).toOption = some shippedLog := by decide +kernel

theorem generateLogTable_poly : generateLogTable Config.poly = .ok shippedLog := by
  have h := generateLogTable_shipped
  cases hg : generateLogTable Config.poly with
  | error k => simp [hg, Except.toOption] at h
  | ok t => simpa [hg, Except.toOption] using h

set_option maxRecDepth 8000 in
/-- `generateExpTable` of it is the table of 95_test_vectors.md section 3, by evaluation. -/
theorem generateExpTable_shipped : generateExpTable shippedLog = shippedExp := by decide +kernel

/-- The INIT sequence on `POLY` leaves the listed tables, whatever was there before. -/
theorem initSequence_poly (s : State) : initSequence Config.poly s = loadShipped s := by
  rw [initSequence_ok generateLogTable_poly, generateExpTable_shipped]
  unfold loadShipped
  dsimp only

theorem generatorResponse_poly : generatorResponse Config.poly = .ok 0x00#8 := by
  unfold generatorResponse
  rw [generateLogTable_poly]

@[simp] theorem loadShipped_initState (s : State) : (loadShipped s).initState = .ready := rfl
@[simp] theorem loadShipped_logTab (s : State) : (loadShipped s).logTab = shippedLog := rfl
@[simp] theorem loadShipped_expTab (s : State) : (loadShipped s).expTab = shippedExp := rfl
@[simp] theorem loadShipped_requests (s : State) : (loadShipped s).requests = s.requests := rfl
@[simp] theorem loadShipped_rsp (s : State) : (loadShipped s).rsp = s.rsp := rfl
@[simp] theorem loadShipped_rspReady (s : State) : (loadShipped s).rspReady = s.rspReady := rfl
@[simp] theorem loadShipped_delivered (s : State) : (loadShipped s).delivered = s.delivered := rfl

theorem loadShipped_mulTab (s : State) :
    (loadShipped s).mulTab = generateMultiplicationTable ((s.setLogTab shippedLog).setExpTab shippedExp) := by
  unfold loadShipped
  dsimp only [State.setInitState_mulTab, State.setMulTab_mulTab]

/-- The tables are built exactly when they are the listed ones with `MULTAB` derived from them. -/
theorem State.built_iff (s : State) :
    s.Built ↔ s.initState = .ready ∧ s.logTab = shippedLog ∧ s.expTab = shippedExp ∧
      s.mulTab = generateMultiplicationTable s := by
  simp only [State.Built, generateLogTable_poly, Except.ok.injEq]
  constructor
  · rintro ⟨h₁, h₂, h₃, h₄⟩
    exact ⟨h₁, h₂.symm, by rw [h₃, ← h₂, generateExpTable_shipped], h₄⟩
  · rintro ⟨h₁, h₂, h₃, h₄⟩
    exact ⟨h₁, h₂.symm, by rw [h₃, h₂, generateExpTable_shipped], h₄⟩

theorem loadShipped_built (s : State) : (loadShipped s).Built :=
  (State.built_iff _).2 ⟨rfl, rfl, rfl, by
    rw [loadShipped_mulTab]
    exact generateMultiplicationTable_congr rfl rfl⟩

end Sys2Proof.Machine
end

