-- ==== Sys2Proof/Laws/Exec.lean ====
section
/-! SUPPORT. What every command computes, apart from how it ends: one inversion lemma for all of exec. -/

namespace Sys2Proof.Machine

/-- What a command computes on the tables of a state, before the test for `FAILED`. (INIT and POLYCHK answer what the
generator reports.) -/
def resultOf (i : Instr) (s : State) : Access Response :=
  match i with
  | .add a b => .next (.ok (a ^^^ b))
  | .sub a b => .next (.ok (a ^^^ b))
  | .mul a b => andThen (multiply a b s) fun d => .next (.ok d)
  | .div a b => divide a b s
  | .exp a n => andThen (power a n s) fun d => .next (.ok d)
  | .logrd a => andThen (logLookup a s) fun e => .next (.ok e.toByte)
  | .exprd k =>
    if Config.expLen ≤ k then .next (.error .invalidArgument) else andThen (expLookup k s) fun d => .next (.ok d)
  | .mulrd a b => andThen (memRead .mulTab (mulIndex a b) s) fun d => .next (.ok d)
  | .init => .next (generatorResponse Config.poly)
  | .polychk p => .next (generatorResponse p)

/-- The six commands that read a table test for `FAILED` and then answer their result. -/
theorem exec_of_readsTables {i : Instr} (h : i.readsTables = true) (s : State) :
    exec i s = withTables s (resultOf i s) := by
  cases i <;> simp only [Instr.readsTables, Bool.false_eq_true] at h <;> rfl

/-- ADD, SUB and POLYCHK answer their result in every state. -/
theorem exec_of_not_readsTables {i : Instr} (h : i.readsTables = false) (hi : i ≠ .init) (s : State) :
    ∃ r, resultOf i s = .next r ∧ exec i s = .next (s.setRsp (some r)) := by
  cases i with
  | init => exact absurd rfl hi
  | add a b => exact ⟨_, rfl, rfl⟩
  | sub a b => exact ⟨_, rfl, rfl⟩
  | polychk p => exact ⟨_, rfl, rfl⟩
  | mul a b => simp [Instr.readsTables] at h
  | div a b => simp [Instr.readsTables] at h
  | exp a n => simp [Instr.readsTables] at h
  | logrd a => simp [Instr.readsTables] at h
  | exprd k => simp [Instr.readsTables] at h
  | mulrd a b => simp [Instr.readsTables] at h

/-- INIT puts the listed tables in place, whatever was there, and answers OK. -/
theorem exec_init_eq (s : State) : exec .init s = .next ((loadShipped s).setRsp (some (.ok 0x00#8))) := by
  show respond (generatorResponse Config.poly) (initSequence Config.poly s) = _
  rw [generatorResponse_poly, initSequence_poly, respond_eq]

theorem State.SameCore.table {s t : State} (h : s.SameCore t) (space : Space) : t.table space = s.table space := by
  cases space
  · exact h.2.1
  · exact h.2.2.1
  · exact h.2.2.2

theorem memRead_sameCore {s t : State} (h : s.SameCore t) (space : Space) (k : Nat) :
    memRead space k t = memRead space k s :=
  memRead_congr (h.table space)

/-- What a command computes depends on the tables alone. -/
theorem resultOf_sameCore {s t : State} (h : s.SameCore t) (i : Instr) : resultOf i t = resultOf i s := by
  cases i <;>
    simp only [resultOf, multiply, divide, power, logarithm, logLookup, expLookup, memRead_sameCore h]

theorem loadShipped_setRsp (s : State) (r : Option Response) :
    loadShipped (s.setRsp r) = (loadShipped s).setRsp r := by
  have h : generateMultiplicationTable (((s.setRsp r).setLogTab shippedLog).setExpTab shippedExp) =
      generateMultiplicationTable ((s.setLogTab shippedLog).setExpTab shippedExp) :=
    generateMultiplicationTable_congr rfl rfl
  unfold loadShipped
  dsimp only
  rw [h]
  simp only [State.setRsp, State.setLogTab, State.setExpTab, State.setMulTab, State.setInitState]

/-- The response presented before a command is no input of the command. -/
theorem exec_setRsp (i : Instr) (s : State) (x : Option Response) : exec i (s.setRsp x) = exec i s := by
  have hc : s.SameCore (s.setRsp x) := ⟨rfl, rfl, rfl, rfl⟩
  cases hr : i.readsTables with
  | true =>
    rw [exec_of_readsTables hr, exec_of_readsTables hr, resultOf_sameCore hc]
    cases hi : s.initState <;> cases resultOf i s <;> simp [withTables, answer, hi]
  | false =>
    by_cases hi : i = .init
    · subst hi
      rw [exec_init_eq, exec_init_eq, loadShipped_setRsp]
      exact congrArg Host.Outcome.next (State.setRsp_twice (loadShipped s) _ _)
    · obtain ⟨r, h₁, h₂⟩ := exec_of_not_readsTables hr hi s
      obtain ⟨r', h₁', h₂'⟩ := exec_of_not_readsTables hr hi (s.setRsp x)
      rw [resultOf_sameCore hc, h₁] at h₁'
      rw [h₂, h₂', Host.Outcome.next.inj h₁']
      exact congrArg Host.Outcome.next (State.setRsp_twice s _ _)

end Sys2Proof.Machine
end

