-- ==== Sys2Proof/Laws/PerInstr.lean ====
section
/-! SUPPORT. Per-command laws: the encoding of every command has `RSV` = 0 and its own operation code. -/

namespace Sys2Proof.Laws.CanonicalWord

/-- The encoding of a command carries its operation code and `RSV` = 0 (30_encoding.md R61, R63). -/
def Statement (i : Instr) : Prop :=
  opField (encode i) = i.opcode ∧ rsvField (encode i) = 0#12

theorem add (a b : Byte) : Statement (.add a b) := ⟨opField_pack _ _ _ _, rsvField_pack _ _ _ _⟩
theorem sub (a b : Byte) : Statement (.sub a b) := ⟨opField_pack _ _ _ _, rsvField_pack _ _ _ _⟩
theorem mul (a b : Byte) : Statement (.mul a b) := ⟨opField_pack _ _ _ _, rsvField_pack _ _ _ _⟩
theorem div (a b : Byte) : Statement (.div a b) := ⟨opField_pack _ _ _ _, rsvField_pack _ _ _ _⟩
theorem exp (a : Byte) (n : Nat) : Statement (.exp a n) := ⟨opField_pack _ _ _ _, rsvField_pack _ _ _ _⟩
theorem logrd (a : Byte) : Statement (.logrd a) := ⟨opField_pack _ _ _ _, rsvField_pack _ _ _ _⟩
theorem exprd (k : Nat) : Statement (.exprd k) := ⟨opField_pack _ _ _ _, rsvField_pack _ _ _ _⟩
theorem mulrd (a b : Byte) : Statement (.mulrd a b) := ⟨opField_pack _ _ _ _, rsvField_pack _ _ _ _⟩
theorem init : Statement .init := ⟨opField_pack _ _ _ _, rsvField_pack _ _ _ _⟩
theorem polychk (p : Byte) : Statement (.polychk p) := ⟨opField_pack _ _ _ _, rsvField_pack _ _ _ _⟩

end Sys2Proof.Laws.CanonicalWord
end

