-- ==== Sys2Proof/Tests/Slice0.lean ====
section
/-! SUPPORT. The model's own tests. Expected values are the spec's (95_test_vectors.md, and the rules named), never the
model's. Then the witnesses: for every statement with hypotheses, a concrete state and operands that meet them. -/

namespace Sys2Proof.Tests

open Sys2Proof.Machine

/-! ## WellFormed: an ill-formed term for each check -/

theorem test_wf_refuses_exp_exponent_too_wide : (Instr.exp 2#8 4294967296).wf = false := by decide
theorem test_wf_takes_exp_widest_exponent : (Instr.exp 2#8 4294967295).wf = true := by decide
theorem test_wf_refuses_exprd_index_too_wide : (Instr.exprd 4294967296).wf = false := by decide
theorem test_wf_takes_exprd_widest_index : (Instr.exprd 4294967295).wf = true := by decide

/-! ## Decode: the words bit by bit from 30_encoding.md R61 and R63: OP, RSV, A, B, N -/

theorem test_decode_add :
    decode (0b0000#4 ++ 0b000000000000#12 ++ 0b10101010#8 ++ 0b01010101#8 ++ 0#32) = .ok (.add 170#8 85#8) := by decide
theorem test_decode_sub :
    decode (0b0001#4 ++ 0b000000000000#12 ++ 0b00001001#8 ++ 0b00000111#8 ++ 0#32) = .ok (.sub 9#8 7#8) := by decide
theorem test_decode_mul :
    decode (0b0010#4 ++ 0b000000000000#12 ++ 0b00000011#8 ++ 0b00000111#8 ++ 0#32) = .ok (.mul 3#8 7#8) := by decide
theorem test_decode_div :
    decode (0b0011#4 ++ 0b000000000000#12 ++ 0b10001110#8 ++ 0b00000010#8 ++ 0#32) = .ok (.div 142#8 2#8) := by decide
theorem test_decode_exp :
    decode (0b0100#4 ++ 0b000000000000#12 ++ 0b00000010#8 ++ 0b11111111#8 ++ 0b1000#32) = .ok (.exp 2#8 8) := by decide
theorem test_decode_logrd :
    decode (0b0101#4 ++ 0b000000000000#12 ++ 0b10001110#8 ++ 0b11111111#8 ++ 0xFFFFFFFF#32) = .ok (.logrd 142#8) := by
  decide
theorem test_decode_exprd :
    decode (0b0110#4 ++ 0b000000000000#12 ++ 0xAB#8 ++ 0xCD#8 ++ 0x80000000#32) = .ok (.exprd 2147483648) := by decide
theorem test_decode_mulrd :
    decode (0b0111#4 ++ 0b000000000000#12 ++ 0b00000001#8 ++ 0b11001000#8 ++ 0#32) = .ok (.mulrd 1#8 200#8) := by decide
theorem test_decode_init : decode 0x8000FFFFFFFFFFFF#64 = .ok .init := by decide
theorem test_decode_polychk :
    decode (0b1001#4 ++ 0b000000000000#12 ++ 0b00011101#8 ++ 0#8 ++ 0#32) = .ok (.polychk 29#8) := by decide

/-- R64: a nonzero `RSV` is illegal whatever `OP` is; here the top bit of `RSV` on an otherwise legal ADD. -/
theorem test_decode_reserved_field : decode 0x0800050500000000#64 = .error (.reservedField 0x800#12) := by decide
theorem test_decode_reserved_opcode : decode 0xF000FFFFFFFFFFFF#64 = .error (.reservedOpcode 0xF#4) := by decide
theorem test_encode_exprd : encode (.exprd 510) = 0x60000000000001FE#64 := by decide
theorem test_encode_polychk : encode (.polychk 27#8) = 0x90001B0000000000#64 := by decide
theorem test_decodeTableWord : decodeTableWord 64 0x70008E8E00000000 = some (.mulrd 142#8 142#8) := by decide
theorem test_decodeTableWord_short : decodeTableWord 32 0x00000307 = some (.add 0#8 0#8) := by decide

/-! ## One step on one word, the response word of 95_test_vectors.md section 5 -/

/-- The response word presented after the step that executes `w` as the first command after reset. -/
def answerTo (w : Nat) : Option Nat :=
  match step (State.reset.withFetchWord 64 w) with
  | .next t => t.rspWord.map BitVec.toNat
  | .fault _ => none
  | .refused _ => none

theorem test_add_cancels : answerTo 0x0000FFFF00000000 = some 0x000 := by decide +kernel
theorem test_add_ignores_n : answerTo 0x00000307FFFFFFFF = some 0x004 := by decide +kernel
theorem test_sub_has_no_borrow : answerTo 0x1000070900000000 = some 0x00E := by decide +kernel
theorem test_mul_last_index_508 : answerTo 0x20008E8E00000000 = some 0x047 := by decide +kernel
theorem test_mul_sum_255 : answerTo 0x2000028E00000000 = some 0x001 := by decide +kernel
theorem test_div_zero_by_zero : answerTo 0x3000000000000000 = some 0x100 := by decide +kernel
theorem test_div_negative_difference : answerTo 0x3000018E00000000 = some 0x002 := by decide +kernel
theorem test_exp_zero_to_the_zero : answerTo 0x4000000000000000 = some 0x001 := by decide +kernel
theorem test_exp_product_wider_than_32_bits : answerTo 0x40008E0001020409 = some 0x016 := by decide +kernel
theorem test_logrd_undef : answerTo 0x5000000000000000 = some 0x0FF := by decide +kernel
theorem test_logrd_142 : answerTo 0x50008E0000000000 = some 0x0FE := by decide +kernel
theorem test_exprd_509 : answerTo 0x60000000000001FD = some 0x08E := by decide +kernel
theorem test_exprd_510 : answerTo 0x60000000000001FE = some 0x100 := by decide +kernel
theorem test_mulrd_3_7 : answerTo 0x7000030700000000 = some 0x009 := by decide +kernel
theorem test_mulrd_0_9 : answerTo 0x7000000900000000 = some 0x000 := by decide +kernel
theorem test_polychk_27 : answerTo 0x90001B0000000000 = some 0x200 := by decide +kernel
theorem test_polychk_29 (s : State) : exec (.polychk 29#8) s = .next (s.setRsp (some (.ok 0x00#8))) := by
  show respond (generatorResponse Config.poly) s = _
  rw [generatorResponse_poly, respond_eq]
theorem test_illegal_word : answerTo 0x2123030700000000 = some 0x300 := by decide +kernel

/-- R87: INIT rebuilds the tables, here from a `READY` state that has none; the entry is 95_test_vectors.md P6 line 2. -/
theorem test_init_rebuilds :
    ∃ t, exec .init (State.reset.setInitState .ready) = .next t ∧ t.logTab.read 2 = some 1#8 :=
  ⟨_, exec_init_eq _, by
    rw [State.setRsp_logTab, loadShipped_logTab]
    decide +kernel⟩

/-! ## Functions: 95_test_vectors.md sections 5.1, 5.2, 5.5 -/

theorem test_double_128 : double 128#8 29#8 = 29#8 := by decide
theorem test_double_255_255 : double 255#8 255#8 = 1#8 := by decide
theorem test_polymul : polymul 83#8 202#8 = 143#8 := by decide +kernel
theorem test_generator_fails_on_27 : (generateLogTable 27#8).toOption = none := by decide +kernel

/-! ## Witnesses for the hypotheses of the statements -/

/-- The state after reset and the INIT sequence (10_state.md R31). -/
def ready : State := loadShipped State.reset

/-- `FAILED`, with no table. -/
def failed : State := State.reset.setInitState .failed

theorem witness_built : ready.Built := loadShipped_built _

theorem witness_accepts : ready.Accepts ∧ failed.Accepts := by
  constructor <;> simp [State.Accepts, ready, failed]

theorem witness_unbuilt : State.reset.initState = .unbuilt := rfl

/-- StepRunsTheDecodedCommand, StatusFollowsThePriority (in `READY`). -/
theorem witness_step_runs :
    (ready.setRequests [0x2000030700000000#64]).Built ∧
    (ready.setRequests [0x2000030700000000#64]).Accepts ∧ (ready.setRequests [0x2000030700000000#64]).rsp = none ∧
    (ready.setRequests [0x2000030700000000#64]).requests = [0x2000030700000000#64] ∧
    decode 0x2000030700000000#64 = .ok (.mul 3#8 7#8) := by
  refine ⟨?_, by simp [State.Accepts, ready], rfl, rfl, by decide⟩
  obtain ⟨h₁, h₂, h₃, h₄⟩ := witness_built
  exact ⟨h₁, h₂, h₃, h₄.trans (generateMultiplicationTable_congr rfl rfl)⟩

/-- IllegalWordAnswersIllegalCommand: one word for each ground. -/
theorem witness_illegal :
    (failed.setRequests [0xA000000000000000#64]).Accepts ∧ (failed.setRequests [0xA000000000000000#64]).rsp = none ∧
    0xA ≤ ((0xA000000000000000#64 : Word).extractLsb' 60 4).toNat ∧
    (0x2001030700000000#64 : Word).extractLsb' 48 12 ≠ 0#12 := by
  refine ⟨by simp [State.Accepts, failed], rfl, by decide, by decide⟩

/-- StatusFollowsThePriority (in `FAILED`), FailedStateAnswersInvalidPolynomial. -/
theorem witness_failed :
    (failed.setRequests [0x3000000000000000#64]).initState = .failed ∧
    (failed.setRequests [0x3000000000000000#64]).rsp = none ∧
    (failed.setRequests [0x3000000000000000#64]).requests = [0x3000000000000000#64] := ⟨rfl, rfl, rfl⟩

/-- StepAcceptsOnlyWhenReady, StepKeepsTheInvariant, NoStepStops, StepKeepsTablesCanonical. -/
theorem witness_inv : ready.Inv ∧ ∃ t, step ready = .next t := by
  refine ⟨⟨fun space => ?_, .inr witness_built⟩, ready, ?_⟩
  · have h := initSequence_table_canonical Config.poly (s := State.reset)
      (fun sp => ⟨State.reset_tables_wf sp, by cases sp <;> simp [State.reset, State.table]⟩) space
    rw [initSequence_poly] at h
    exact h
  · have h : portEvent ready = .idle := rfl
    simp only [step, h]

/-- PresentedResponseIsDeliveredFirst: a response taken, a response that waits, and an idle port. -/
theorem witness_port :
    (failed.setRsp (some (.ok 1#8))).Accepts ∧ (failed.setRsp (some (.ok 1#8))).rspReady = true ∧
    ((failed.setRsp (some (.ok 1#8))).setRspReady false).rspReady = false ∧
    failed.rsp = none ∧ failed.requests = [] := by
  refine ⟨by simp [State.Accepts, failed], rfl, rfl, rfl, rfl⟩

/-- RequestsAreAnsweredInOrder. -/
theorem witness_requests :
    (ready.setRequests [0x3000010000000000#64, 0x2000030700000000#64]).Built ∧
    (ready.setRequests [0x3000010000000000#64, 0x2000030700000000#64]).rsp = none ∧
    (ready.setRequests [0x3000010000000000#64, 0x2000030700000000#64]).rspReady = true := by
  obtain ⟨h₁, h₂, h₃, h₄⟩ := witness_built
  exact ⟨⟨h₁, h₂, h₃, h₄.trans (generateMultiplicationTable_congr rfl rfl)⟩, rfl, rfl⟩

theorem holds_of_read {s : State} {space : Space} {i : Nat} {v : Byte} (hi : i < space.size)
    (h : (s.table space).read i = some v) : s.Holds space i v := memRead_eq_next.2 ⟨hi, h⟩

/-- MulReadsExpAtTheSumOfLogs, DivReadsExpAtTheDifferenceOfLogs, ExpReadsExpAtTheProductModulo255: the logarithms 254
and 0, and the indices 508 (the sum), 1 (the negative difference 0 − 254) and 239 (the product, the same with the exponent
reduced first), 95_test_vectors.md. -/
theorem witness_log_and_exp :
    ready.initState = .ready ∧ ready.Holds .log 142 254#8 ∧ ready.Holds .log 1 0#8 ∧
    ready.Holds .exp 508 71#8 ∧ ready.Holds .exp 1 2#8 ∧ ready.Holds .exp (254 * 16909321 % 255) 22#8 ∧
    ready.Holds .exp (254 * (16909321 % 255) % 255) 22#8 :=
  ⟨rfl, holds_of_read (by decide) (by decide +kernel), holds_of_read (by decide) (by decide +kernel),
    holds_of_read (by decide) (by decide +kernel), holds_of_read (by decide) (by decide +kernel),
    holds_of_read (by decide) (by decide +kernel), holds_of_read (by decide) (by decide +kernel)⟩

/-- LogrdAnswersTheStoredByte, ExprdAnswersTheEntry, MulrdAnswersTheEntry: the first and last indices of a range. -/
theorem witness_entries :
    ready.Holds .log 0 0xFF#8 ∧ ready.Holds .log 255 175#8 ∧ ready.Holds .exp 0 1#8 ∧ ready.Holds .exp 509 142#8 ∧
    ready.Holds .mulTab 0 0#8 ∧ ready.Holds .mulTab (142 * 256 + 142) 71#8 :=
  ⟨holds_of_read (by decide) (by decide +kernel), holds_of_read (by decide) (by decide +kernel),
    holds_of_read (by decide) (by decide +kernel), holds_of_read (by decide) (by decide +kernel),
    holds_of_read (by decide) (by decide +kernel), holds_of_read (by decide) (by
      show (generateMultiplicationTable _).read _ = _
      rw [read_generateMultiplicationTable _ (by decide)]
      decide +kernel)⟩

/-- The statements about a successful and about a failed run of the generator. -/
theorem witness_generator :
    (∃ t, generateLogTable 29#8 = .ok t) ∧ (∃ k, generateLogTable 27#8 = .error k) ∧
    29#8 ∈ validPolynomials ∧ 27#8 ∉ validPolynomials := by
  refine ⟨⟨_, generateLogTable_poly⟩, ?_, by decide, by decide⟩
  have h := test_generator_fails_on_27
  cases hg : generateLogTable 27#8 with
  | error k => exact ⟨k, rfl⟩
  | ok t => simp [hg, Except.toOption] at h

/-- ErrorsAreNotSticky, CommandFrame. -/
theorem witness_error :
    ∃ t, exec (.div 1#8 0#8) ready = .next t ∧ t.rsp = some (.error .invalidArgument) := ⟨_, rfl, rfl⟩

/-- CommandsStopOnlyOnUnbuiltTables: a fault and a refusal, each in a state that no run reaches. -/
theorem witness_stops :
    exec (.logrd 1#8) State.reset = .fault (.unwrittenEntry .log 1) ∧
    exec (.mul 1#8 1#8) ((State.reset.setInitState .ready).setLogTab [(1, 0xFF#8)]) =
      .refused (.undefinedLogarithm 1#8) := ⟨rfl, rfl⟩

/-- ReplyDependsOnlyOnTheTables: two different states with the same tables. -/
theorem witness_same_core : ready.SameCore (ready.setRspReady false) ∧ ready.setRspReady false ≠ ready := by
  refine ⟨⟨rfl, rfl, rfl, rfl⟩, fun h => ?_⟩
  have := congrArg State.rspReady h
  simp [ready, State.reset] at this

/-- DecodeAndEncodeAgree: a well-formed command, a decoded word with unused bits set, and another that agrees with it
on the used bits. -/
theorem witness_encoding :
    (Instr.exprd 510).wf = true ∧ decode 0x6000ABCD00000008#64 = .ok (.exprd 8) ∧
    0x6000ABCD00000008#64 &&& (Instr.exprd 8).usedBits = 0x6000000000000008#64 &&& (Instr.exprd 8).usedBits := by
  decide

end Sys2Proof.Tests
end

/-! # O40: built tables are complete and no command changes them (10_state.md R29) -/

namespace Sys2Proof.Machine

/-! ## The listed bytes leave no entry out -/

theorem Memory.read_ofBytesFrom_zero {l : List Nat} {i : Nat} (h : i < l.length) :
    (Memory.ofBytesFrom 0 l).read i = some (BitVec.ofNat 8 l[i]) := by
  simp [Memory.read_ofBytesFrom, h]

theorem shippedLogBytes_length : shippedLogBytes.length = 256 := by decide +kernel

theorem shippedExpBytes_length : shippedExpBytes.length = 510 := by decide +kernel

theorem shippedLogBytes_tail_lt : ∀ n ∈ shippedLogBytes.tail, n < 255 := by decide +kernel

/-- Every entry of the listed `LOG` but entry 0 stands for a logarithm (40_table_generator.md R83). -/
theorem shippedLog_read_isLog {i : Nat} (hpos : 0 < i) (hlt : i < 256) :
    ∃ v l, shippedLog.read i = some v ∧ LogEntry.ofByte v = .log l ∧ l < 255 := by
  have hi : i < shippedLogBytes.length := hlt.trans_eq shippedLogBytes_length.symm
  have hmem : shippedLogBytes[i] ∈ shippedLogBytes.tail := by
    obtain ⟨j, rfl⟩ := Nat.exists_eq_succ_of_ne_zero hpos.ne'
    have hj : j < shippedLogBytes.tail.length := by simp only [List.length_tail]; omega
    rw [← List.getElem_tail (h := hj)]
    exact List.getElem_mem hj
  have hbyte := shippedLogBytes_tail_lt _ hmem
  exact ⟨_, _, Memory.read_ofBytesFrom_zero hi, LogEntry.ofByte_toByte_log hbyte, hbyte⟩

/-! ## What is read from built tables -/

/-- `LOG`, `EXP` and `MULTAB` hold a byte at every index that exists, once they are built. -/
theorem State.Built.exists_holds {s : State} (h : s.Built) {space : Space} {i : Nat} (hi : i < space.size) :
    ∃ v, s.Holds space i v := by
  obtain ⟨-, hlog, hexp, hmul⟩ := s.built_iff.1 h
  suffices hr : ∃ v, (s.table space).read i = some v from hr.imp fun _ hv => memRead_eq_next.2 ⟨hi, hv⟩
  cases space with
  | log =>
    have hr := Memory.read_ofBytesFrom_zero (hi.trans_eq shippedLogBytes_length.symm)
    exact ⟨_, (congrArg (Memory.read · i) hlog).trans hr⟩
  | exp =>
    have hr := Memory.read_ofBytesFrom_zero (hi.trans_eq shippedExpBytes_length.symm)
    exact ⟨_, (congrArg (Memory.read · i) hexp).trans hr⟩
  | mulTab => exact ⟨_, (congrArg (Memory.read · i) hmul).trans (read_generateMultiplicationTable s hi)⟩

theorem State.Built.exists_expLookup {s : State} (h : s.Built) {k : Nat} (hk : k < 510) :
    ∃ d, expLookup k s = .next d :=
  h.exists_holds (space := .exp) hk

theorem State.Built.exists_logLookup {s : State} (h : s.Built) (a : Byte) : ∃ e, logLookup a s = .next e := by
  obtain ⟨v, hv⟩ := h.exists_holds (space := .log) a.isLt
  exact ⟨LogEntry.ofByte v, by rw [logLookup, hv, andThen_next]⟩

/-- A nonzero element has a logarithm, at most 254 (40_table_generator.md R83). -/
theorem State.Built.exists_logarithm {s : State} (h : s.Built) {a : Byte} (ha : a ≠ 0#8) :
    ∃ l, l < 255 ∧ logarithm a s = .next l := by
  obtain ⟨-, hlog, -, -⟩ := s.built_iff.1 h
  have hpos : 0 < a.toNat := Nat.pos_of_ne_zero fun h0 => ha (BitVec.eq_of_toNat_eq h0)
  obtain ⟨v, l, hv, hl, hlt⟩ := shippedLog_read_isLog hpos a.isLt
  have hread : memRead .log a.toNat s = .next v := memRead_eq_next.2 ⟨a.isLt, by rw [State.table_log, hlog, hv]⟩
  exact ⟨l, hlt, by simp only [logarithm, logLookup, hread, andThen_next, hl]⟩

/-! ## The index every field operation computes exists (42_field_ops.md R116) -/

theorem sumIndex_lt {la lb : Nat} (ha : la < 255) (hb : lb < 255) : sumIndex la lb < 510 := by
  simp only [sumIndex]
  omega

theorem diffIndex_lt {la lb : Nat} (ha : la < 255) (hb : lb < 255) : diffIndex la lb < 510 := by
  simp only [diffIndex, Config.groupOrder]
  split <;> omega

theorem powIndex_lt (l n : Nat) : powIndex l n < 510 :=
  (Nat.mod_lt _ (by decide : 0 < Config.groupOrder)).trans (by decide)

theorem mulIndex_lt (a b : Byte) : mulIndex a b < Space.mulTab.size := by
  have ha := a.isLt
  have hb := b.isLt
  simp only [mulIndex, Space.size, Config.mulRows, Config.mulCols]
  omega

/-! ## Every command completes on built tables -/

theorem State.Built.exists_multiply {s : State} (h : s.Built) (a b : Byte) : ∃ d, multiply a b s = .next d := by
  simp only [multiply]
  split
  · exact ⟨_, rfl⟩
  · rename_i hab
    obtain ⟨ha, hb⟩ := not_or.1 hab
    obtain ⟨la, hla, hlogA⟩ := h.exists_logarithm ha
    obtain ⟨lb, hlb, hlogB⟩ := h.exists_logarithm hb
    simpa only [hlogA, hlogB, andThen_next] using h.exists_expLookup (sumIndex_lt hla hlb)

theorem State.Built.exists_divide {s : State} (h : s.Built) (a b : Byte) : ∃ r, divide a b s = .next r := by
  simp only [divide]
  split
  · exact ⟨_, rfl⟩
  · rename_i hb
    split
    · exact ⟨_, rfl⟩
    · rename_i ha
      obtain ⟨la, hla, hlogA⟩ := h.exists_logarithm ha
      obtain ⟨lb, hlb, hlogB⟩ := h.exists_logarithm hb
      obtain ⟨d, hd⟩ := h.exists_expLookup (diffIndex_lt hla hlb)
      exact ⟨.ok d, by simp only [hlogA, hlogB, hd, andThen_next]⟩

theorem State.Built.exists_power {s : State} (h : s.Built) (a : Byte) (n : Nat) : ∃ d, power a n s = .next d := by
  simp only [power]
  split
  · exact ⟨_, rfl⟩
  · split
    · exact ⟨_, rfl⟩
    · rename_i ha
      obtain ⟨l, -, hlog⟩ := h.exists_logarithm ha
      simpa only [hlog, andThen_next] using h.exists_expLookup (powIndex_lt l n)

theorem exists_andThen_next {α β : Type} {x : Access α} (h : ∃ a, x = .next a) (f : α → β) :
    ∃ b, andThen x (fun a => .next (f a)) = .next b := by
  obtain ⟨a, rfl⟩ := h
  exact ⟨f a, rfl⟩

/-- No command's computation meets an unwritten entry, an index that does not exist or an undefined logarithm. -/
theorem State.Built.exists_resultOf {s : State} (h : s.Built) (i : Instr) : ∃ r, resultOf i s = .next r := by
  cases i with
  | add a b => exact ⟨_, rfl⟩
  | sub a b => exact ⟨_, rfl⟩
  | mul a b => exact exists_andThen_next (h.exists_multiply a b) _
  | div a b => exact h.exists_divide a b
  | exp a n => exact exists_andThen_next (h.exists_power a n) _
  | logrd a => exact exists_andThen_next (h.exists_logLookup a) _
  | exprd k =>
    simp only [resultOf]
    split
    · exact ⟨_, rfl⟩
    · rename_i hk
      exact exists_andThen_next (h.exists_expLookup (Nat.lt_of_not_le hk)) _
  | mulrd a b => exact exists_andThen_next (h.exists_holds (mulIndex_lt a b)) _
  | init => exact ⟨_, rfl⟩
  | polychk p => exact ⟨_, rfl⟩

/-- Building the tables again changes nothing: they are derived from `POLY` alone. -/
theorem State.Built.loadShipped_eq {s : State} (h : s.Built) : loadShipped s = s := by
  obtain ⟨hready, hlog, hexp, hmul⟩ := s.built_iff.1 h
  have hl : s.setLogTab shippedLog = s := hlog ▸ s.setLogTab_self
  have he : s.setExpTab shippedExp = s := hexp ▸ s.setExpTab_self
  have hm : s.setMulTab (generateMultiplicationTable s) = s := hmul ▸ s.setMulTab_self
  have hr : s.setInitState .ready = s := hready ▸ s.setInitState_self
  simp only [loadShipped, hl, he, hm, hr]

/-- On built tables each of the ten commands presents a response and changes nothing else, INIT included. -/
theorem State.Built.exec_eq {s : State} (h : s.Built) (i : Instr) :
    ∃ r, resultOf i s = .next r ∧ exec i s = .next (s.setRsp (some r)) := by
  cases htab : i.readsTables with
  | true =>
    obtain ⟨r, hr⟩ := h.exists_resultOf i
    exact ⟨r, hr, by rw [exec_of_readsTables htab, hr, withTables_next h.1]⟩
  | false =>
    by_cases hinit : i = .init
    · subst hinit
      exact ⟨.ok 0x00#8, by rw [resultOf, generatorResponse_poly], by rw [exec_init_eq, h.loadShipped_eq]⟩
    · exact exec_of_not_readsTables htab hinit s

/-! ## The tables after a command -/

theorem State.sameCore_setRsp (s : State) (r : Option Response) : s.SameCore (s.setRsp r) := ⟨rfl, rfl, rfl, rfl⟩

theorem State.sameRequesters_setRsp (s : State) (r : Option Response) : s.SameRequesters (s.setRsp r) :=
  ⟨rfl, rfl, rfl⟩

/-- Whether the tables are built is told by `INIT_STATE` and the tables alone. -/
theorem State.Built.of_sameCore {s t : State} (h : s.Built) (hc : s.SameCore t) : t.Built := by
  obtain ⟨hready, hlog, hexp, hmul⟩ := h
  obtain ⟨cready, clog, cexp, cmul⟩ := hc
  have hgen : generateMultiplicationTable t = generateMultiplicationTable s :=
    generateMultiplicationTable_congr clog cexp
  exact ⟨cready.trans hready, by rw [clog, hlog], by rw [cexp, clog, hexp], by rw [cmul, hgen, hmul]⟩

/-- Settles O40: on built tables a command completes with its result, and the state it leaves differs from the old one
in the response presented alone. -/
theorem builtTablesAreImmutable : Obligations.BuiltTablesAreImmutable := by
  intro i s h
  obtain ⟨r, -, hexec⟩ := h.exec_eq i
  have hcore := s.sameCore_setRsp (some r)
  exact ⟨_, hexec, h.of_sameCore hcore, hcore, s.sameRequesters_setRsp _⟩

end Sys2Proof.Machine


/-! # O1: decoding and encoding agree (30_encoding.md R70) -/

namespace Sys2Proof

/-! ## A word is its five fields -/

/-- The field `N` as bits; `nField` is their number (30_encoding.md R62). -/
def nBits (w : Word) : BitVec 32 := w.extractLsb' 0 32

theorem toNat_nBits (w : Word) : (nBits w).toNat = nField w := rfl

theorem nField_lt (w : Word) : nField w < 2 ^ Config.nw := (nBits w).isLt

theorem nBits_pack (op : BitVec 4) (a b : Byte) (n : BitVec 32) : nBits (pack op a b n) = n :=
  BitVec.eq_of_toNat_eq (nField_pack op a b n)

/-- Two words are equal exactly when `OP`, `RSV`, `A`, `B` and `N` are. -/
theorem eq_iff_fields {v w : Word} :
    v = w ↔ opField v = opField w ∧ rsvField v = rsvField w ∧ aField v = aField w ∧ bField v = bField w ∧
      nBits v = nBits w := by
  refine ⟨fun h => h ▸ ⟨rfl, rfl, rfl, rfl, rfl⟩, fun h => ?_⟩
  have hv := v.isLt
  have hw := w.isLt
  simp only [opField, rsvField, aField, bField, nBits, ← BitVec.toNat_inj, BitVec.extractLsb'_toNat,
    Nat.shiftRight_eq_div_pow] at h ⊢
  omega

/-- A masked word is a packed word when each masked field is the field packed. -/
theorem and_eq_pack_iff {w m : Word} {op : BitVec 4} {a b : Byte} {n : BitVec 32} :
    w &&& m = pack op a b n ↔ opField w &&& opField m = op ∧ rsvField w &&& rsvField m = 0#12 ∧
      aField w &&& aField m = a ∧ bField w &&& bField m = b ∧ nBits w &&& nBits m = n := by
  rw [eq_iff_fields, opField_pack, rsvField_pack, aField_pack, bField_pack, nBits_pack]
  simp only [opField, rsvField, aField, bField, nBits, BitVec.extractLsb'_and]

/-! ## What it is to decode to a command -/

/-- The operands of a command are those of the word's fields it uses. -/
def Instr.OperandsIn (w : Word) : Instr → Prop
  | .add a b => aField w = a ∧ bField w = b
  | .sub a b => aField w = a ∧ bField w = b
  | .mul a b => aField w = a ∧ bField w = b
  | .div a b => aField w = a ∧ bField w = b
  | .exp a n => aField w = a ∧ nField w = n
  | .logrd a => aField w = a
  | .exprd k => nField w = k
  | .mulrd a b => aField w = a ∧ bField w = b
  | .init => True
  | .polychk p => aField w = p

theorem Instr.OperandsIn.wf {w : Word} {c : Instr} (h : c.OperandsIn w) : c.wf = true := by
  cases c with
  | exp a n => exact decide_eq_true (h.2 ▸ nField_lt w)
  | exprd k => exact decide_eq_true (h ▸ nField_lt w)
  | _ => rfl

theorem decodeOp_eq_ok_iff {w : Word} {c : Instr} :
    decodeOp w = .ok c ↔ opField w = c.opcode ∧ c.OperandsIn w := by
  constructor
  · intro h
    simp only [decodeOp] at h
    split at h <;> cases h
    all_goals
      rename_i hop
      exact ⟨BitVec.eq_of_toNat_eq hop, by simp [Instr.OperandsIn]⟩
  · rintro ⟨hop, hargs⟩
    cases c <;> simp_all [decodeOp, Instr.opcode, Instr.OperandsIn]

theorem decode_eq_ok_iff {w : Word} {c : Instr} :
    decode w = .ok c ↔ opField w = c.opcode ∧ rsvField w = 0#12 ∧ c.OperandsIn w := by
  rw [and_left_comm, ← decodeOp_eq_ok_iff, decode]
  split
  case isTrue hrsv => simp [hrsv]
  case isFalse hrsv => simp [hrsv]

theorem nBits_eq_ofNat_iff {w : Word} {n : Nat} (h : Instr.nFits n = true) :
    nBits w = BitVec.ofNat 32 n ↔ nField w = n := by
  have hn : n < 2 ^ 32 := of_decide_eq_true h
  rw [← BitVec.toNat_inj, toNat_nBits, BitVec.toNat_ofNat, Nat.mod_eq_of_lt hn]

/-- Field by field, a mask is all ones or zero: the bits a well-formed command uses are those of its encoding exactly in
the words that have its operation code, `RSV` = 0 and its operands. -/
theorem and_usedBits_eq_encode_iff {w : Word} {c : Instr} (h : c.wf = true) :
    w &&& c.usedBits = encode c ↔ opField w = c.opcode ∧ rsvField w = 0#12 ∧ c.OperandsIn w := by
  have hop (x : BitVec 4) : x &&& 15#4 = x := BitVec.and_allOnes
  have hrsv (x : BitVec 12) : x &&& 4095#12 = x := BitVec.and_allOnes
  have hbyte (x : Byte) : x &&& 255#8 = x := BitVec.and_allOnes
  have hn (x : BitVec 32) : x &&& 4294967295#32 = x := BitVec.and_allOnes
  cases c with
  | exp a n =>
    simp [encode, and_eq_pack_iff, Instr.OperandsIn, ← nBits_eq_ofNat_iff (n := n) h, Instr.usedBits, opField, rsvField,
      aField, bField, nBits, hop, hrsv, hbyte, hn]
  | exprd k =>
    simp [encode, and_eq_pack_iff, Instr.OperandsIn, ← nBits_eq_ofNat_iff (n := k) h, Instr.usedBits, opField, rsvField,
      aField, bField, nBits, hop, hrsv, hn]
  | _ =>
    simp [encode, and_eq_pack_iff, Instr.OperandsIn, Instr.usedBits, opField, rsvField, aField, bField, nBits, hop, hrsv,
      hbyte]

/-- A word decodes to a well-formed command exactly when the bits the command uses are those of its encoding. -/
theorem decode_eq_ok_iff_and_usedBits {w : Word} {c : Instr} :
    decode w = .ok c ↔ c.wf = true ∧ w &&& c.usedBits = encode c := by
  constructor
  · intro h
    have hfields := decode_eq_ok_iff.1 h
    have hwf := hfields.2.2.wf
    exact ⟨hwf, (and_usedBits_eq_encode_iff hwf).2 hfields⟩
  · rintro ⟨hwf, hbits⟩
    exact decode_eq_ok_iff.2 ((and_usedBits_eq_encode_iff hwf).1 hbits)

/-! ## The clauses of R70 -/

theorem operandsIn_encode {c : Instr} (h : c.wf = true) : c.OperandsIn (encode c) := by
  cases c with
  | exp a n => exact ⟨aField_pack _ _ _ _, (nBits_eq_ofNat_iff h).1 (nBits_pack _ _ _ _)⟩
  | exprd k => exact (nBits_eq_ofNat_iff h).1 (nBits_pack _ _ _ _)
  | init => trivial
  | _ => simp [Instr.OperandsIn, encode, aField_pack, bField_pack]

theorem decode_encode {c : Instr} (h : c.wf = true) : decode (encode c) = .ok c := by
  have hop : opField (encode c) = c.opcode := by cases c <;> exact opField_pack _ _ _ _
  have hrsv : rsvField (encode c) = 0#12 := by cases c <;> exact rsvField_pack _ _ _ _
  exact decode_eq_ok_iff.2 ⟨hop, hrsv, operandsIn_encode h⟩

theorem and_eq_self_iff_and_not_eq_zero {v m : Word} : v &&& m = v ↔ v &&& ~~~m = 0#64 := by
  constructor
  · intro h
    rw [← h, BitVec.and_assoc, BitVec.and_not_self]
    exact BitVec.and_zero
  · intro h
    ext i hi
    have hbit : v[i] = true → m[i] = true := by simpa using congrArg (fun x : Word => x[i]) h
    simpa using hbit

theorem encode_eq_iff_unused_eq_zero {w : Word} {c : Instr} (h : decode w = .ok c) :
    encode c = w ↔ w &&& ~~~c.usedBits = 0#64 := by
  rw [← (decode_eq_ok_iff_and_usedBits.1 h).2, and_eq_self_iff_and_not_eq_zero]

theorem decode_eq_of_and_usedBits_eq {w w' : Word} {c : Instr} (h : decode w = .ok c)
    (hbits : w &&& c.usedBits = w' &&& c.usedBits) : decode w' = .ok c := by
  rw [decode_eq_ok_iff_and_usedBits] at h ⊢
  rwa [← hbits]

/-! ## Which words name a command (30_encoding.md R63, R64) -/

/-- A row of the opcode map: `RSV` = 0, the operation code and the operands make the command. -/
theorem decode_of_fields {w : Word} {c : Instr} (hrsv : rsvField w = 0#12) (hargs : c.OperandsIn w)
    (hop : (opField w).toNat = c.opcode.toNat) : decode w = .ok c :=
  decode_eq_ok_iff.2 ⟨BitVec.eq_of_toNat_eq hop, hrsv, hargs⟩

theorem Instr.opcode_lt (c : Instr) : c.opcode.toNat < 0xA := by
  cases c <;> simp [Instr.opcode]

theorem exists_decodeOp_eq_ok {w : Word} (h : (opField w).toNat < 0xA) : ∃ c, decodeOp w = .ok c := by
  unfold decodeOp
  split
  case h_11 =>
    simp only [imp_false] at *
    omega
  all_goals exact ⟨_, rfl⟩

theorem exists_decode_eq_ok_iff {w : Word} :
    (∃ c, decode w = .ok c) ↔ (opField w).toNat < 0xA ∧ rsvField w = 0#12 := by
  constructor
  · rintro ⟨c, h⟩
    obtain ⟨hop, hrsv, -⟩ := decode_eq_ok_iff.1 h
    exact ⟨hop ▸ c.opcode_lt, hrsv⟩
  · rintro ⟨hop, hrsv⟩
    rw [decode, if_pos hrsv]
    exact exists_decodeOp_eq_ok hop

/-- R64: the two grounds on which a word is illegal. -/
theorem illegal_iff_not_decodes {w : Word} :
    (0xA ≤ (opField w).toNat ∨ rsvField w ≠ 0#12) ↔ ¬ ∃ c, decode w = .ok c := by
  rw [exists_decode_eq_ok_iff, not_and_or, not_lt]

theorem exists_decode_eq_error {w : Word} (h : 0xA ≤ (opField w).toNat ∨ rsvField w ≠ 0#12) :
    ∃ e, decode w = .error e := by
  cases hd : decode w with
  | error e => exact ⟨e, rfl⟩
  | ok c => exact absurd ⟨c, hd⟩ (illegal_iff_not_decodes.1 h)

/-- Settles O1: a word decodes to a command exactly when its fields are the command's, and exactly when the bits the
command uses are those of its encoding. -/
theorem decodeAndEncodeAgree : Obligations.DecodeAndEncodeAgree := by
  refine ⟨fun w hrsv => exists_decode_eq_error (.inr hrsv), fun w hrsv => ?_, fun c => decode_encode,
    fun w c h => ⟨(decode_eq_ok_iff_and_usedBits.1 h).1, encode_eq_iff_unused_eq_zero h⟩,
    fun w w' c => decode_eq_of_and_usedBits_eq⟩
  have row (c : Instr) := decode_of_fields (c := c) hrsv
  exact ⟨row (.add _ _) ⟨rfl, rfl⟩, row (.sub _ _) ⟨rfl, rfl⟩, row (.mul _ _) ⟨rfl, rfl⟩, row (.div _ _) ⟨rfl, rfl⟩,
    row (.exp _ _) ⟨rfl, rfl⟩, row (.logrd _) rfl, row (.exprd _) rfl, row (.mulrd _ _) ⟨rfl, rfl⟩, row .init trivial,
    row (.polychk _) rfl, fun hop => exists_decode_eq_error (.inl hop)⟩

end Sys2Proof

/-! # O6: illegal words (30_encoding.md R64) -/

namespace Sys2Proof.Machine

theorem reply_eq_some_of_exec {i : Instr} {s t : State} {r : Response} (h : exec i s = .next (t.setRsp (some r))) :
    reply i s = some r := by
  rw [reply, h]
  rfl

/-- In states with the same `INIT_STATE` and tables, commands are given the same response. -/
theorem reply_sameCore {s t : State} (h : s.SameCore t) (i : Instr) : reply i t = reply i s := by
  cases htab : i.readsTables with
  | true =>
    have hinit : t.initState = s.initState := h.1
    simp only [reply, exec_of_readsTables htab, resultOf_sameCore h, withTables, hinit]
    cases s.initState <;> cases resultOf i s <;> rfl
  | false =>
    by_cases hi : i = .init
    · subst hi
      rw [reply_eq_some_of_exec (exec_init_eq s), reply_eq_some_of_exec (exec_init_eq t)]
    · obtain ⟨r, hr, hexec⟩ := exec_of_not_readsTables htab hi s
      obtain ⟨r', hr', hexec'⟩ := exec_of_not_readsTables htab hi t
      rw [resultOf_sameCore h, hr] at hr'
      cases hr'
      rw [reply_eq_some_of_exec hexec, reply_eq_some_of_exec hexec']

theorem replyToWord_sameCore {s t : State} (h : s.SameCore t) (w : Word) : replyToWord w t = replyToWord w s := by
  simp only [replyToWord, reply_sameCore h]

/-- Settles O6: an illegal word is taken and answered 0x300, and leaves `INIT_STATE` and the tables, all that later
words are answered from. -/
theorem illegalWordAnswersIllegalCommand : Obligations.IllegalWordAnswersIllegalCommand := by
  refine ⟨fun w => illegal_iff_not_decodes, fun s w rest hacc hrsp hreq hillegal => ?_⟩
  obtain ⟨e, he⟩ := exists_decode_eq_error hillegal
  have hstep : step s = .next ((s.setRequests rest).setRsp (some (.error .illegalCommand))) := by
    rw [step_accept hacc hrsp hreq, he]
  have hcore : s.SameCore ((s.setRequests rest).setRsp (some (.error .illegalCommand))) := ⟨rfl, rfl, rfl, rfl⟩
  exact ⟨_, hstep, rfl, rfl, hcore, replyToWord_sameCore hcore⟩

end Sys2Proof.Machine

/-! # O20 to O26: the table generator (40_table_generator.md) -/

namespace Sys2Proof.Machine

/-! ## The doubling step (R81) -/

theorem toNat_shiftLeft_one (b : Byte) : (b.zeroExtend 9 <<< 1).toNat = 2 * b.toNat := by
  have hb := b.isLt
  simp only [BitVec.truncate_eq_setWidth, BitVec.toNat_shiftLeft, BitVec.toNat_setWidth, Nat.shiftLeft_eq]
  omega

theorem double_of_le {b : Byte} (h : 256 ≤ 2 * b.toNat) (p : Byte) :
    double b p = BitVec.ofNat 8 (2 * b.toNat - 256) ^^^ p := by
  simp only [double, toNat_shiftLeft_one, if_pos h]

theorem double_of_not_le {b : Byte} (h : ¬ 256 ≤ 2 * b.toNat) (p : Byte) :
    double b p = BitVec.ofNat 8 (2 * b.toNat) := by
  simp only [double, toNat_shiftLeft_one, if_neg h]

theorem toNat_double (b p : Byte) :
    (double b p).toNat = if 256 ≤ 2 * b.toNat then (2 * b.toNat - 256) ^^^ p.toNat else 2 * b.toNat := by
  have hb := b.isLt
  split
  case isTrue h => rw [double_of_le h, BitVec.toNat_xor, BitVec.toNat_ofNat, Nat.mod_eq_of_lt (by omega)]
  case isFalse h => rw [double_of_not_le h, BitVec.toNat_ofNat, Nat.mod_eq_of_lt (by omega)]

/-- Bit 8 of `b` shifted left is bit 7 of `b`. -/
theorem getLsbD_seven_iff (b : Byte) : b.getLsbD 7 = true ↔ 256 ≤ 2 * b.toNat := by
  have hmsb : b.msb = b.getLsbD 7 := BitVec.msb_eq_getLsbD_last b
  rw [← hmsb, BitVec.msb_eq_decide, decide_eq_true_iff]
  omega

/-- If bit 8 is set, it is 1 in front of what the doubling step keeps. -/
theorem shiftLeft_one_eq_append {b : Byte} (h : 256 ≤ 2 * b.toNat) :
    b.zeroExtend 9 <<< 1 = 1#1 ++ BitVec.ofNat 8 (2 * b.toNat - 256) := by
  have hb := b.isLt
  have hlow : (2 * b.toNat - 256) % 2 ^ 8 < 2 ^ 8 := Nat.mod_lt _ (by decide)
  apply BitVec.eq_of_toNat_eq
  rw [toNat_shiftLeft_one, BitVec.toNat_append, BitVec.toNat_ofNat, BitVec.toNat_ofNat,
    ← Nat.shiftLeft_add_eq_or_of_lt hlow, Nat.shiftLeft_eq]
  omega

theorem zeroExtend_double (b p : Byte) :
    (double b p).zeroExtend 9 =
      if b.getLsbD 7 then (b.zeroExtend 9 <<< 1) ^^^ Config.modulus p else b.zeroExtend 9 <<< 1 := by
  by_cases h : 256 ≤ 2 * b.toNat
  · rw [if_pos ((getLsbD_seven_iff b).2 h), shiftLeft_one_eq_append h, Config.modulus, BitVec.xor_append,
      double_of_le h]
    exact BitVec.setWidth_eq_append (by decide)
  · rw [if_neg (mt (getLsbD_seven_iff b).1 h)]
    apply BitVec.eq_of_toNat_eq
    rw [toNat_shiftLeft_one, BitVec.toNat_setWidth_of_le (by decide), toNat_double, if_neg h]

/-- Settles O20: in numbers the doubling step takes 256 off before it adds the polynomial byte; adding `MODULUS(p)` to
the nine bits does both at once. -/
theorem doublingShiftsAndReduces : Obligations.DoublingShiftsAndReduces :=
  ⟨toNat_double, zeroExtend_double, by decide, by decide, by decide⟩

@[simp] theorem double_zero (p : Byte) : double 0#8 p = 0#8 := rfl

/-- If the polynomial byte is odd, the doubling step can be undone: bit 0 of the result tells whether it reduced. -/
theorem double_injective {p : Byte} (hp : p.toNat % 2 = 1) : Function.Injective (double · p) := by
  intro a b hab
  have h := congrArg BitVec.toNat hab
  simp only [toNat_double] at h
  have hodd (m : Nat) : (2 * m - 256 ^^^ p.toNat) % 2 = 1 := by
    rw [Nat.xor_mod_two_eq]
    omega
  have ha := hodd a.toNat
  have hb := hodd b.toNat
  apply BitVec.eq_of_toNat_eq
  split at h <;> split at h
  · have := Nat.xor_left_injective h
    omega
  all_goals omega

/-! ## The powers of the generator -/

@[simp] theorem generatorPower_zero (p : Byte) : generatorPower p 0 = 1#8 := rfl

theorem generatorPower_succ (p : Byte) (k : Nat) : generatorPower p (k + 1) = double (generatorPower p k) p :=
  Function.iterate_succ_apply' _ _ _

theorem generatorPower_add (p : Byte) (k d : Nat) :
    generatorPower p (d + k) = (double · p)^[d] (generatorPower p k) :=
  Function.iterate_add_apply _ _ _ _

/-- Two of the first 255 powers of the generator are equal. -/
def GeneratorRepeats (p : Byte) : Prop :=
  ∃ i j : Nat, i < j ∧ j ≤ 254 ∧ generatorPower p i = generatorPower p j

theorem generatorPower_injOn {p : Byte} (h : ¬ GeneratorRepeats p) {i j : Nat} (hi : i < 255) (hj : j < 255)
    (heq : generatorPower p i = generatorPower p j) : i = j := by
  rcases Nat.lt_trichotomy i j with hlt | rfl | hlt
  · exact absurd ⟨i, j, hlt, by omega, heq⟩ h
  · rfl
  · exact absurd ⟨j, i, hlt, by omega, heq.symm⟩ h

/-! ## A run of the generator (R80, R82) -/

/-- A log table after `n` iterations: the first `n` powers have their logarithms, every other element is `UNDEF`. -/
structure HoldsLogs (p : Byte) (n : Nat) (m : Memory) : Prop where
  read_power : ∀ i < n, m.read (generatorPower p i).toNat = some (BitVec.ofNat 8 i)
  read_other : ∀ e : Byte, (∀ i < n, generatorPower p i ≠ e) → m.read e.toNat = some 0xFF#8

theorem holdsLogs_start (p : Byte) :
    HoldsLogs p 0 (Memory.tabulate (fun _ => LogEntry.undef.toByte) Config.logLen) where
  read_power := nofun
  read_other e _ := by rw [Memory.read_tabulate, if_pos e.isLt]; rfl

/-- The entry of a new power is written; it overwrites no other power's. -/
theorem HoldsLogs.write {p : Byte} {n : Nat} {m : Memory} (h : HoldsLogs p n m)
    (hnew : ∀ i < n, generatorPower p i ≠ generatorPower p n) :
    HoldsLogs p (n + 1) (m.write (generatorPower p n).toNat (LogEntry.log n).toByte) where
  read_power i hi := by
    rcases Nat.lt_succ_iff_lt_or_eq.1 hi with hlt | rfl
    · rw [Memory.read_write_other _ _ fun heq => hnew i hlt (BitVec.eq_of_toNat_eq heq).symm, h.read_power i hlt]
    · exact Memory.read_write_same _ _ _
  read_other e he := by
    rw [Memory.read_write_other _ _ fun heq => he n n.lt_succ_self (BitVec.eq_of_toNat_eq heq)]
    exact h.read_other e fun i hi => he i (hi.trans n.lt_succ_self)

/-- An iteration on a new power writes its entry. -/
theorem logLoop_of_new {p : Byte} {n r : Nat} {m : Memory} (h : HoldsLogs p n m)
    (hnew : ∀ i < n, generatorPower p i ≠ generatorPower p n) :
    logLoop p (r + 1) n (generatorPower p n) m =
      logLoop p r (n + 1) (generatorPower p (n + 1))
        (m.write (generatorPower p n).toNat (LogEntry.log n).toByte) := by
  have hread : (m.read (generatorPower p n).toNat).map LogEntry.ofByte = some .undef := by
    rw [h.read_other _ hnew]; rfl
  rw [logLoop, hread, generatorPower_succ]

/-- An iteration on a power that came before raises InvalidPolynomial. -/
theorem logLoop_of_repeat {p : Byte} {i n r : Nat} {m : Memory} (h : HoldsLogs p n m) (hi : i < n) (hn : n ≤ 255)
    (heq : generatorPower p i = generatorPower p n) :
    logLoop p (r + 1) n (generatorPower p n) m = .error .invalidPolynomial := by
  have hread : (m.read (generatorPower p n).toNat).map LogEntry.ofByte = some (.log i) := by
    rw [← heq, h.read_power i hi]
    exact congrArg some (LogEntry.ofByte_toByte_log (hi.trans_le hn))
  rw [logLoop, hread]

/-- What a run can do: it meets a power a second time and raises InvalidPolynomial, or it enters every power. -/
theorem logLoop_cases {p : Byte} {n r : Nat} {m : Memory} (h : HoldsLogs p n m) (hn : n + r = 255) :
    (GeneratorRepeats p ∧ logLoop p r n (generatorPower p n) m = .error .invalidPolynomial) ∨
    ∃ t, logLoop p r n (generatorPower p n) m = .ok t ∧ HoldsLogs p 255 t := by
  induction r generalizing n m with
  | zero => exact .inr ⟨m, rfl, hn ▸ h⟩
  | succ r ih =>
    by_cases hrep : ∃ i < n, generatorPower p i = generatorPower p n
    · obtain ⟨i, hi, heq⟩ := hrep
      exact .inl ⟨⟨i, n, hi, by omega, heq⟩, logLoop_of_repeat h hi (by omega) heq⟩
    · have hnew : ∀ i < n, generatorPower p i ≠ generatorPower p n := fun i hi heq => hrep ⟨i, hi, heq⟩
      rw [logLoop_of_new h hnew]
      exact ih (h.write hnew) (by omega)

theorem generateLogTable_cases (p : Byte) :
    (GeneratorRepeats p ∧ generateLogTable p = .error .invalidPolynomial) ∨
    ∃ t, generateLogTable p = .ok t ∧ HoldsLogs p 255 t :=
  logLoop_cases (holdsLogs_start p) rfl

/-- Different logarithms stand at different elements. -/
theorem HoldsLogs.not_repeats {p : Byte} {t : Memory} (h : HoldsLogs p 255 t) : ¬ GeneratorRepeats p := by
  rintro ⟨i, j, hlt, hj, heq⟩
  have hread := h.read_power i (by omega)
  rw [heq, h.read_power j (by omega), Option.some.injEq] at hread
  have := congrArg BitVec.toNat hread
  simp only [BitVec.toNat_ofNat] at this
  omega

theorem holdsLogs_of_ok {p : Byte} {t : Memory} (h : generateLogTable p = .ok t) : HoldsLogs p 255 t := by
  rcases generateLogTable_cases p with ⟨-, herr⟩ | ⟨t', hok, ht⟩
  · simp [h] at herr
  · rw [h, Except.ok.injEq] at hok
    exact hok ▸ ht

theorem generateLogTable_eq_error_iff {p : Byte} {k : ErrorKind} :
    generateLogTable p = .error k ↔ k = .invalidPolynomial ∧ GeneratorRepeats p := by
  rcases generateLogTable_cases p with ⟨hrep, herr⟩ | ⟨t, hok, ht⟩
  · simp [herr, hrep, eq_comm]
  · simp [hok, ht.not_repeats]

theorem exists_generateLogTable_ok_iff {p : Byte} : (∃ t, generateLogTable p = .ok t) ↔ ¬ GeneratorRepeats p := by
  rcases generateLogTable_cases p with ⟨hrep, herr⟩ | ⟨t, hok, ht⟩
  · simp [herr, hrep]
  · simp [hok, ht.not_repeats]

/-- Settles O21: a run raises InvalidPolynomial at the first repeat, and a run without one enters all 255 powers. -/
theorem generatorFailsExactlyOnARepeat : Obligations.GeneratorFailsExactlyOnARepeat := by
  refine ⟨fun p => ?_, fun p k h => (generateLogTable_eq_error_iff.1 h).1, by decide, by decide⟩
  simp only [generateLogTable_eq_error_iff, exists_eq_left]
  rfl


/-! ## The sixteen valid polynomials (R84) -/

/-- Whether one of the `n` elements after `b` is `x`, each the double of the one before it. -/
def comesTo (p x : Byte) : Nat → Byte → Bool
  | 0, _ => false
  | n + 1, b => double b p == x || comesTo p x n (double b p)

theorem comesTo_iff {p x : Byte} {n : Nat} {b : Byte} :
    comesTo p x n b = true ↔ ∃ d < n, (double · p)^[d + 1] b = x := by
  induction n generalizing b with
  | zero => simp [comesTo]
  | succ n ih =>
    rw [comesTo, Bool.or_eq_true, ih, beq_iff_eq]
    constructor
    · rintro (h | ⟨d, hd, h⟩)
      · exact ⟨0, n.succ_pos, h⟩
      · exact ⟨d + 1, Nat.succ_lt_succ hd, h⟩
    · rintro ⟨_ | d, hd, h⟩
      · exact .inl h
      · exact .inr ⟨d, Nat.lt_of_succ_lt_succ hd, h⟩

theorem odd_of_mem_validPolynomials : ∀ p ∈ validPolynomials, p.toNat % 2 = 1 := by decide

/-- By evaluation: no power of the generator from 1 to 254 is 1. -/
theorem not_comesTo_one_of_valid : ∀ p ∈ validPolynomials, comesTo p 1#8 254 1#8 = false := by decide +kernel

/-- By evaluation: the powers return to power 8 before the end of the run. (From power 8 on they are periodic for every
`p`: the modulus has degree 8, so the part of it that is a power of x is gone by then.) -/
theorem comesTo_eighth_of_not_valid :
    ∀ p : Byte, p ∉ validPolynomials → comesTo p (generatorPower p 8) 246 (generatorPower p 8) = true := by
  decide +kernel

theorem double_injective_of_valid {p : Byte} (h : p ∈ validPolynomials) : Function.Injective (double · p) :=
  double_injective (odd_of_mem_validPolynomials p h)

theorem not_generatorRepeats_of_valid {p : Byte} (h : p ∈ validPolynomials) : ¬ GeneratorRepeats p := by
  rintro ⟨i, j, hlt, hj, heq⟩
  have hone : (double · p)^[j - i] 1#8 = 1#8 := Function.iterate_cancel (double_injective_of_valid h) heq.symm
  have hcomes : comesTo p 1#8 254 1#8 = true :=
    comesTo_iff.2 ⟨j - i - 1, by omega, by rwa [Nat.sub_add_cancel (Nat.sub_pos_of_lt hlt)]⟩
  simp [not_comesTo_one_of_valid p h] at hcomes

theorem generatorRepeats_of_not_valid {p : Byte} (h : p ∉ validPolynomials) : GeneratorRepeats p := by
  obtain ⟨d, hd, heq⟩ := comesTo_iff.1 (comesTo_eighth_of_not_valid p h)
  rw [← generatorPower_add] at heq
  exact ⟨8, d + 1 + 8, by omega, by omega, heq.symm⟩

theorem generatorRepeats_iff {p : Byte} : GeneratorRepeats p ↔ p ∉ validPolynomials :=
  ⟨fun hrep hmem => not_generatorRepeats_of_valid hmem hrep, generatorRepeats_of_not_valid⟩

theorem exists_generateLogTable_ok_iff_valid {p : Byte} :
    (∃ t, generateLogTable p = .ok t) ↔ p ∈ validPolynomials := by
  rw [exists_generateLogTable_ok_iff, generatorRepeats_iff, not_not]

theorem generateLogTable_of_not_valid {p : Byte} (h : p ∉ validPolynomials) :
    generateLogTable p = .error .invalidPolynomial :=
  generateLogTable_eq_error_iff.2 ⟨rfl, generatorRepeats_iff.2 h⟩

theorem valid_of_ok {p : Byte} {t : Memory} (h : generateLogTable p = .ok t) : p ∈ validPolynomials :=
  exists_generateLogTable_ok_iff_valid.1 ⟨t, h⟩

/-- Settles O23: the generator repeats within 255 iterations for exactly the other 240 values. -/
theorem exactlySixteenPolynomialsAreValid : Obligations.ExactlySixteenPolynomialsAreValid :=
  ⟨fun _ => exists_generateLogTable_ok_iff_valid, fun _ => generateLogTable_of_not_valid, rfl, by decide, by decide⟩

/-! ## The logarithms of a valid polynomial (R83) -/

/-- No power of the generator is zero: the doubling step gives zero for zero alone. -/
theorem generatorPower_ne_zero {p : Byte} (h : p ∈ validPolynomials) (k : Nat) : generatorPower p k ≠ 0#8 := by
  induction k with
  | zero => exact (by decide : 1#8 ≠ 0#8)
  | succ k ih =>
    rw [generatorPower_succ]
    exact fun hzero => ih (double_injective_of_valid h (hzero.trans (double_zero p).symm))

theorem toNat_pos_of_ne_zero {e : Byte} (h : e ≠ 0#8) : 0 < e.toNat :=
  Nat.pos_of_ne_zero fun h0 => h (BitVec.eq_of_toNat_eq h0)

/-- The first 255 powers are different and nonzero, so they are all of the 255 nonzero elements. -/
theorem exists_generatorPower_eq {p e : Byte} (h : p ∈ validPolynomials) (he : e ≠ 0#8) :
    ∃ i < 255, generatorPower p i = e := by
  have hsurj := Finset.surjOn_of_injOn_of_card_le (s := Finset.range 255) (t := Finset.Ioo 0 256)
    (fun i => (generatorPower p i).toNat)
    (fun i _ => by
      have hpos := toNat_pos_of_ne_zero (generatorPower_ne_zero h i)
      have hlt := (generatorPower p i).isLt
      simpa using ⟨hpos, hlt⟩)
    (fun i hi j hj heq => by
      have hnot := not_generatorRepeats_of_valid h
      simp only [Finset.coe_range, Set.mem_Iio] at hi hj
      exact generatorPower_injOn hnot hi hj (BitVec.eq_of_toNat_eq heq))
    (by simp)
  obtain ⟨i, hi, heq⟩ := hsurj (by simpa using ⟨toNat_pos_of_ne_zero he, e.isLt⟩ : e.toNat ∈ _)
  exact ⟨i, by simpa using hi, BitVec.eq_of_toNat_eq heq⟩

/-- What the log table of a successful run holds: at a power of the generator, its exponent. -/
theorem read_log_generatorPower {p : Byte} {t : Memory} (h : generateLogTable p = .ok t) {i : Nat} (hi : i < 255) :
    t.read (generatorPower p i).toNat = some (BitVec.ofNat 8 i) :=
  (holdsLogs_of_ok h).read_power i hi

theorem read_log_zero {p : Byte} {t : Memory} (h : generateLogTable p = .ok t) : t.read 0 = some 0xFF#8 :=
  (holdsLogs_of_ok h).read_other 0#8 fun i _ => generatorPower_ne_zero (valid_of_ok h) i

/-- The log table of a successful run holds `l` at a nonzero element exactly when the element is the generator to the
power `l`. -/
theorem read_log_eq_some_iff {p : Byte} {t : Memory} (h : generateLogTable p = .ok t) {e l : Byte} (he : e ≠ 0#8) :
    t.read e.toNat = some l ↔ l.toNat ≤ 254 ∧ generatorPower p l.toNat = e := by
  constructor
  · intro hread
    obtain ⟨i, hi, rfl⟩ := exists_generatorPower_eq (valid_of_ok h) he
    rw [read_log_generatorPower h hi, Option.some.injEq] at hread
    have hl : l.toNat = i := by rw [← hread, BitVec.toNat_ofNat, Nat.mod_eq_of_lt (by omega)]
    exact ⟨by omega, by rw [hl]⟩
  · rintro ⟨hl, rfl⟩
    rw [read_log_generatorPower h (by omega), BitVec.ofNat_toNat, BitVec.setWidth_eq]

theorem exists_read_log {p : Byte} {t : Memory} (h : generateLogTable p = .ok t) {e : Byte} (he : e ≠ 0#8) :
    ∃ l : Byte, l.toNat ≤ 254 ∧ generatorPower p l.toNat = e ∧ t.read e.toNat = some l := by
  obtain ⟨i, hi, rfl⟩ := exists_generatorPower_eq (valid_of_ok h) he
  have hread := read_log_generatorPower h hi
  obtain ⟨hl, hpow⟩ := (read_log_eq_some_iff h he).1 hread
  exact ⟨_, hl, hpow, hread⟩

/-- A logarithm up to 254 stands at one element only; `UNDEF`, at 0, is none of them. -/
theorem eq_generatorPower_of_read_log {p : Byte} {t : Memory} (h : generateLogTable p = .ok t) {e l : Byte}
    (hl : l.toNat ≤ 254) (hread : t.read e.toNat = some l) : generatorPower p l.toNat = e := by
  refine ((read_log_eq_some_iff h fun hzero => ?_).1 hread).2
  subst hzero
  cases (read_log_zero h).symm.trans hread
  exact absurd hl (by decide)

/-- By evaluation of the table 95_test_vectors.md lists: the values R83 names. -/
theorem shippedLog_named_entries :
    shippedLog.read 4 = some 2#8 ∧ shippedLog.read 8 = some 3#8 ∧ shippedLog.read 16 = some 4#8 ∧
    shippedLog.read 32 = some 5#8 ∧ shippedLog.read 64 = some 6#8 ∧ shippedLog.read 128 = some 7#8 ∧
    shippedLog.read 29 = some 8#8 ∧ shippedLog.read 58 = some 9#8 ∧ shippedLog.read 3 = some 25#8 ∧
    shippedLog.read 7 = some 198#8 ∧ shippedLog.read 9 = some 223#8 ∧ shippedLog.read 142 = some 254#8 ∧
    shippedLog.read 255 = some 175#8 := by decide +kernel

theorem eq_shippedLog_of_ok {t : Memory} (h : generateLogTable Config.poly = .ok t) : t = shippedLog :=
  (Except.ok.inj (generateLogTable_poly.symm.trans h)).symm

/-- Settles O22: the powers of the generator from 0 to 254 are the nonzero elements, each once. -/
theorem validLogTableIsABijection : Obligations.ValidLogTableIsABijection := by
  refine ⟨fun p t h => ⟨read_log_zero h, read_log_generatorPower h (i := 0) (by decide),
    read_log_generatorPower h (i := 1) (by decide), fun e he => ?_, fun e l => read_log_eq_some_iff h,
    fun l hl => ⟨generatorPower p l.toNat, ?_⟩⟩, fun t h => eq_shippedLog_of_ok h ▸ shippedLog_named_entries⟩
  · obtain ⟨l, hl, -, hread⟩ := exists_read_log h he
    exact ⟨l, hl, hread⟩
  · have hne := generatorPower_ne_zero (valid_of_ok h) l.toNat
    exact ⟨hne, (read_log_eq_some_iff h hne).2 ⟨hl, rfl⟩,
      fun e' he' => (eq_generatorPower_of_read_log h hl he').symm⟩

/-! ## The exponent table of a valid polynomial (R86) -/

/-- An exponent table that holds the elements below `i`, each wherever it is the power of the generator. -/
def HoldsExps (p : Byte) (i : Nat) (m : Memory) : Prop :=
  ∀ k : Nat, m.read k =
    if k < 510 ∧ (generatorPower p (k % 255)).toNat < i then some (generatorPower p (k % 255)) else none

theorem holdsExps_start {p : Byte} (h : p ∈ validPolynomials) : HoldsExps p 1 [] := fun k => by
  have hpos := toNat_pos_of_ne_zero (generatorPower_ne_zero h (k % 255))
  rw [Memory.read_nil, if_neg (by omega)]

/-- The next element is written at both indices where it is the power of the generator. -/
theorem HoldsExps.write {p : Byte} (hp : p ∈ validPolynomials) {l : Nat} (hl : l < 255) {m : Memory}
    (h : HoldsExps p (generatorPower p l).toNat m) :
    HoldsExps p ((generatorPower p l).toNat + 1)
      ((m.write l (generatorPower p l)).write (l + 255) (generatorPower p l)) := fun k => by
  have hnew : (generatorPower p (k % 255)).toNat = (generatorPower p l).toNat ↔ k % 255 = l := by
    rw [BitVec.toNat_inj]
    exact ⟨generatorPower_injOn (not_generatorRepeats_of_valid hp) (Nat.mod_lt _ (by decide)) hl,
      congrArg (generatorPower p)⟩
  rw [Memory.read_write, Memory.read_write, h k]
  by_cases hk : k < 510 ∧ k % 255 = l
  · have hin : k < 510 ∧ (generatorPower p (k % 255)).toNat < (generatorPower p l).toNat + 1 :=
      ⟨hk.1, Nat.lt_succ_of_le (hnew.2 hk.2).le⟩
    rw [if_pos hin, hk.2]
    rcases (by omega : l + 255 = k ∨ l + 255 ≠ k ∧ l = k) with hhigh | ⟨hne, hlow⟩
    · rw [if_pos hhigh]
    · rw [if_neg hne, if_pos hlow]
  · rw [if_neg (by omega), if_neg (by omega)]
    congr 1
    rw [eq_iff_iff]
    omega

theorem expLoop_holds {p : Byte} {t : Memory} (h : generateLogTable p = .ok t) {r i : Nat} {m : Memory} (hi : 0 < i)
    (hr : i + r = 256) (hm : HoldsExps p i m) : HoldsExps p 256 (expLoop t r i m) := by
  induction r generalizing i m with
  | zero => exact hr ▸ hm
  | succ r ih =>
    obtain ⟨e, rfl⟩ : ∃ e : Byte, e.toNat = i := ⟨BitVec.ofNat 8 i, by rw [BitVec.toNat_ofNat]; omega⟩
    have he : e ≠ 0#8 := fun hzero => hi.ne' (congrArg BitVec.toNat hzero)
    obtain ⟨l, hl, rfl⟩ := exists_generatorPower_eq (valid_of_ok h) he
    have hlog : (t.read (generatorPower p l).toNat).map LogEntry.ofByte = some (.log l) := by
      rw [read_log_generatorPower h hl]
      exact congrArg some (LogEntry.ofByte_toByte_log hl)
    rw [expLoop, hlog]
    refine ih (Nat.succ_pos _) (by omega) ?_
    rw [BitVec.ofNat_toNat, BitVec.setWidth_eq]
    exact hm.write (valid_of_ok h) hl

/-- Entry `k` of the exponent table is the generator to the power `k mod 255`; there are 510. -/
theorem read_generateExpTable {p : Byte} {t : Memory} (h : generateLogTable p = .ok t) (k : Nat) :
    (generateExpTable t).read k = if k < 510 then some (generatorPower p (k % 255)) else none := by
  have hholds : HoldsExps p 256 (generateExpTable t) :=
    expLoop_holds h Nat.one_pos rfl (holdsExps_start (valid_of_ok h))
  have hlt : (generatorPower p (k % 255)).toNat < 256 := (generatorPower p (k % 255)).isLt
  simp only [hholds k, hlt, and_true]

theorem read_generateExpTable_of_lt {p : Byte} {t : Memory} (h : generateLogTable p = .ok t) {k : Nat} (hk : k < 510) :
    (generateExpTable t).read k = some (generatorPower p (k % 255)) := by
  rw [read_generateExpTable h, if_pos hk]

theorem read_generateExpTable_eq_some_iff {p : Byte} {t : Memory} (h : generateLogTable p = .ok t) {k : Nat}
    {e : Byte} : (generateExpTable t).read k = some e ↔ k < 510 ∧ generatorPower p (k % 255) = e := by
  rw [read_generateExpTable h]
  split
  case isTrue hk => simp [hk]
  case isFalse hk => simp [hk]

/-- By evaluation of the table 95_test_vectors.md lists: the values R86 names. -/
theorem shippedExp_named_entries :
    (List.range 16).map shippedExp.read =
      [1#8, 2#8, 4#8, 8#8, 16#8, 32#8, 64#8, 128#8, 29#8, 58#8, 116#8, 232#8, 205#8, 135#8, 19#8, 38#8].map some ∧
    shippedExp.read 254 = some 142#8 ∧ shippedExp.read 255 = some 1#8 ∧ shippedExp.read 253 = some 71#8 ∧
    shippedExp.read 508 = some 71#8 ∧ shippedExp.read 509 = some 142#8 := by decide +kernel

/-- Settles O24: entry `k` is the generator to the power `k mod 255`, and `LOG` holds `k mod 255` at that element. -/
theorem expTableHoldsTwoPeriods : Obligations.ExpTableHoldsTwoPeriods := by
  refine ⟨fun p t h => ⟨fun k => read_generateExpTable_of_lt h, fun k hk => ?_, fun l hl => ?_, fun k hk => ?_,
    fun e l he hread => ?_, fun k e hk hread => ?_⟩, fun t h => ?_⟩
  · rw [read_generateExpTable h, if_neg (by omega)]
  · rw [read_generateExpTable_of_lt h (by omega), read_generateExpTable_of_lt h (by omega), Nat.add_mod_right]
  · exact generatorPower_ne_zero (valid_of_ok h) _ ((read_generateExpTable_eq_some_iff h).1 hk).2
  · obtain ⟨hl, hpow⟩ := (read_log_eq_some_iff h he).1 hread
    rw [read_generateExpTable_of_lt h (by omega), Nat.mod_eq_of_lt (by omega), hpow]
  · rw [← ((read_generateExpTable_eq_some_iff h).1 hread).2]
    exact read_log_generatorPower h (Nat.mod_lt _ (by decide))
  · rw [eq_shippedLog_of_ok h, generateExpTable_shipped]
    exact shippedExp_named_entries

/-! ## POLYCHK (R88) -/

/-- What the generator reports, in every state that runs it. -/
theorem generatorResponse_eq (p : Byte) :
    generatorResponse p = if p ∈ validPolynomials then .ok 0x00#8 else .error .invalidPolynomial := by
  by_cases h : p ∈ validPolynomials
  · obtain ⟨t, ht⟩ := exists_generateLogTable_ok_iff_valid.2 h
    rw [if_pos h]
    unfold generatorResponse
    rw [ht]
  · rw [if_neg h]
    unfold generatorResponse
    rw [generateLogTable_of_not_valid h]

theorem exec_polychk (p : Byte) (s : State) :
    exec (.polychk p) s = .next (s.setRsp (some (generatorResponse p))) := rfl

theorem decode_pack_of_operandsIn {c : Instr} {a b : Byte} {n : BitVec 32}
    (h : c.OperandsIn (pack c.opcode a b n)) : decode (pack c.opcode a b n) = .ok c :=
  decode_eq_ok_iff.2 ⟨opField_pack _ _ _ _, rsvField_pack _ _ _ _, h⟩

/-- Settles O26: POLYCHK answers what the generator reports, which is success for the 16 valid polynomials alone. -/
theorem polychkReportsTheGenerator : Obligations.PolychkReportsTheGenerator := by
  refine ⟨fun p b n => decode_pack_of_operandsIn (c := .polychk p) (aField_pack _ _ _ _), fun p => rfl,
    fun s p t _ ht => ?_, fun s p k _ hk => ?_, fun s p _ => ?_⟩
  · rw [exec_polychk, generatorResponse_eq, if_pos (valid_of_ok ht)]
  · rw [exec_polychk, generatorResponse_eq,
      if_neg (generatorRepeats_iff.1 (generateLogTable_eq_error_iff.1 hk).2)]
  · rw [exec_polychk, generatorResponse_eq]

/-! ## Products through the tables of a valid polynomial -/

section
variable {p : Byte} {s : State} (hlog : generateLogTable p = .ok s.logTab)
include hlog

/-- The logarithm of a power of the generator is its exponent. -/
theorem logarithm_generatorPower {i : Nat} (hi : i < 255) : logarithm (generatorPower p i) s = .next i := by
  have hread : memRead .log (generatorPower p i).toNat s = .next (BitVec.ofNat 8 i) :=
    memRead_eq_next.2 ⟨(generatorPower p i).isLt, read_log_generatorPower hlog hi⟩
  have hentry : LogEntry.ofByte (BitVec.ofNat 8 i) = .log i := LogEntry.ofByte_toByte_log hi
  simp only [logarithm, logLookup, hread, andThen_next, hentry]

variable (hexp : s.expTab = generateExpTable s.logTab)
include hexp

theorem expLookup_eq_generatorPower {k : Nat} (hk : k < 510) :
    expLookup k s = .next (generatorPower p (k % 255)) :=
  memRead_eq_next.2 ⟨hk, (congrArg (Memory.read · k) hexp).trans (read_generateExpTable_of_lt hlog hk)⟩

/-- The product of two powers of the generator is the power of the sum of their exponents (42_field_ops.md R113). -/
theorem multiply_generatorPower {i j : Nat} (hi : i < 255) (hj : j < 255) :
    multiply (generatorPower p i) (generatorPower p j) s = .next (generatorPower p ((i + j) % 255)) := by
  have hne := generatorPower_ne_zero (valid_of_ok hlog)
  rw [multiply, if_neg (not_or.2 ⟨hne i, hne j⟩), logarithm_generatorPower hlog hi, andThen_next,
    logarithm_generatorPower hlog hj, andThen_next]
  exact expLookup_eq_generatorPower hlog hexp (sumIndex_lt hi hj)

theorem exists_multiply_of_valid (a b : Byte) : ∃ d, multiply a b s = .next d := by
  by_cases hzero : a = 0#8 ∨ b = 0#8
  · exact ⟨0#8, if_pos hzero⟩
  · obtain ⟨ha, hb⟩ := not_or.1 hzero
    obtain ⟨i, hi, rfl⟩ := exists_generatorPower_eq (valid_of_ok hlog) ha
    obtain ⟨j, hj, rfl⟩ := exists_generatorPower_eq (valid_of_ok hlog) hb
    exact ⟨_, multiply_generatorPower hlog hexp hi hj⟩

end

/-- The built multiplication table holds the product of a pair at the pair's index (43_mult_table_builder.md R144). -/
theorem holds_mulTab_of_multiply {s : State} (hmul : s.mulTab = generateMultiplicationTable s) {a b d : Byte}
    (hd : multiply a b s = .next d) : s.Holds .mulTab (a.toNat * 256 + b.toNat) d := by
  have hindex : a.toNat * 256 + b.toNat < 65536 := mulIndex_lt a b
  have hb := b.isLt
  have hrow : BitVec.ofNat 8 ((a.toNat * 256 + b.toNat) / 256) = a := by
    rw [(by omega : (a.toNat * 256 + b.toNat) / 256 = a.toNat), BitVec.ofNat_toNat, BitVec.setWidth_eq]
  have hcol : BitVec.ofNat 8 ((a.toNat * 256 + b.toNat) % 256) = b := by
    rw [(by omega : (a.toNat * 256 + b.toNat) % 256 = b.toNat), BitVec.ofNat_toNat, BitVec.setWidth_eq]
  refine memRead_eq_next.2 ⟨hindex, ?_⟩
  rw [State.table_mulTab, hmul, read_generateMultiplicationTable s hindex, hrow, hcol, productByte, hd]

/-! ## INIT (R87) -/

/-- The tables a successful INIT sequence leaves, each derived from those before it (70_reset_and_hazards.md R181). -/
theorem initSequence_of_valid {p : Byte} (h : p ∈ validPolynomials) (s : State) :
    (initSequence p s).initState = .ready ∧ generateLogTable p = .ok (initSequence p s).logTab ∧
    (initSequence p s).expTab = generateExpTable (initSequence p s).logTab ∧
    (initSequence p s).mulTab = generateMultiplicationTable (initSequence p s) := by
  obtain ⟨t, ht⟩ := exists_generateLogTable_ok_iff_valid.2 h
  rw [initSequence_ok ht]
  refine ⟨State.setInitState_initState _ _, ?_, ?_, ?_⟩
  · simpa only [State.setInitState_logTab, State.setMulTab_logTab, State.setExpTab_logTab,
      State.setLogTab_logTab] using ht
  · simp only [State.setInitState_expTab, State.setInitState_logTab, State.setMulTab_expTab, State.setMulTab_logTab,
      State.setExpTab_expTab, State.setExpTab_logTab, State.setLogTab_logTab]
  · rw [State.setInitState_mulTab, State.setMulTab_mulTab]
    exact generateMultiplicationTable_congr rfl rfl

theorem exec_logrd {s : State} (hs : s.initState = .ready) {a v : Byte} (h : s.Holds .log a.toNat v) :
    exec (.logrd a) s = .next (s.setRsp (some (.ok v))) := by
  rw [exec_of_readsTables rfl, resultOf, logLookup, h, andThen_next, andThen_next, LogEntry.toByte_ofByte,
    withTables_next hs]

theorem State.Built.exec_logrd_two {s : State} (h : s.Built) :
    exec (.logrd 2#8) s = .next (s.setRsp (some (.ok 1#8))) := by
  obtain ⟨hready, hlog, -, -⟩ := h
  exact exec_logrd hready (memRead_eq_next.2 ⟨by decide, read_log_generatorPower hlog (i := 1) (by decide)⟩)

/-- Settles O25: on `POLY` the sequence leaves the listed tables; on any valid polynomial each table is derived from
those before it, and every product is given by them. -/
theorem initBuildsAllTables : Obligations.InitBuildsAllTables := by
  refine ⟨fun a b n => decode_pack_of_operandsIn (c := .init) trivial, rfl, fun s _ => ?_, fun s hs => ?_,
    fun p s hp => ?_, fun p s hp => ?_⟩
  · have hbuilt := (loadShipped_built s).of_sameCore (State.sameCore_setRsp _ (some (.ok 0x00#8)))
    exact ⟨_, exec_init_eq s, hbuilt, rfl, ⟨rfl, rfl, rfl⟩, hbuilt.exec_logrd_two⟩
  · rw [exec_init_eq, hs.loadShipped_eq]
  · exact ⟨initSequence_error (generateLogTable_of_not_valid hp) s, by rw [generatorResponse_eq, if_neg hp]⟩
  · obtain ⟨hready, hlog, hexp, hmul⟩ := initSequence_of_valid hp s
    refine ⟨hready, by rw [generatorResponse_eq, if_pos hp], hlog, hexp, fun a b => ?_⟩
    obtain ⟨d, hd⟩ := exists_multiply_of_valid hlog hexp a b
    exact ⟨d, hd, holds_mulTab_of_multiply hmul hd⟩

end Sys2Proof.Machine

/-! # O17, O18, O28: the table reads LOGRD and EXPRD (41_table_lookups.md) -/

namespace Sys2Proof.Machine

/-- In `FAILED` every command that reads a table is answered InvalidPolynomial (60_exceptions.md R168). -/
theorem exec_failed {i : Instr} (h : i.readsTables = true) {s : State} (hs : s.initState = .failed) :
    exec i s = .next (s.setRsp (some (.error .invalidPolynomial))) := by
  rw [exec_of_readsTables h, withTables_failed hs]

theorem State.Built.generateLogTable_eq {s : State} (h : s.Built) : generateLogTable Config.poly = .ok s.logTab := h.2.1

/-! ## LOGRD (R101) -/

theorem State.Built.exec_logrd_of_read {s : State} (h : s.Built) {a v : Byte} (hread : s.logTab.read a.toNat = some v) :
    exec (.logrd a) s = .next (s.setRsp (some (.ok v))) :=
  exec_logrd h.1 (memRead_eq_next.2 ⟨a.isLt, hread⟩)

/-- At the generator to the power `i`, LOGRD answers `i`. -/
theorem State.Built.exec_logrd_generatorPower {s : State} (h : s.Built) {i : Nat} (hi : i < 255) :
    exec (.logrd (generatorPower Config.poly i)) s = .next (s.setRsp (some (.ok (BitVec.ofNat 8 i)))) :=
  h.exec_logrd_of_read (read_log_generatorPower h.generateLogTable_eq hi)

theorem State.Built.exists_exec_logrd {s : State} (h : s.Built) {a : Byte} (ha : a ≠ 0#8) :
    ∃ l : Byte, l.toNat ≤ 254 ∧ exec (.logrd a) s = .next (s.setRsp (some (.ok l))) ∧
      generatorPower Config.poly l.toNat = a := by
  obtain ⟨l, hl, hpow, hread⟩ := exists_read_log h.generateLogTable_eq ha
  exact ⟨l, hl, h.exec_logrd_of_read hread, hpow⟩

/-- Settles O17: LOGRD answers the byte `LOG` holds; on built tables that is the sentinel at 0 and the exponent at every
power of the generator, which every nonzero element is. -/
theorem logrdAnswersTheStoredByte : Obligations.LogrdAnswersTheStoredByte := by
  refine ⟨fun a b n => decode_pack_of_operandsIn (c := .logrd a) (aField_pack _ _ _ _), fun a => rfl,
    fun s a v hs => exec_logrd hs, fun s a => exec_failed rfl, fun s h => ?_⟩
  have hlog := h.generateLogTable_eq
  obtain ⟨-, -, -, -, -, -, -, -, h3, -, -, h142, -⟩ := eq_shippedLog_of_ok hlog ▸ shippedLog_named_entries
  exact ⟨h.exec_logrd_of_read (read_log_zero hlog), h.exec_logrd_generatorPower (i := 0) (by decide),
    h.exec_logrd_of_read h3, h.exec_logrd_of_read h142, fun a => h.exists_exec_logrd⟩

/-! ## EXPRD (R103) -/

/-- An entry that is held is below 510, so its index passes the range test. -/
theorem exec_exprd {s : State} (hs : s.initState = .ready) {k : Nat} {d : Byte} (h : s.Holds .exp k d) :
    exec (.exprd k) s = .next (s.setRsp (some (.ok d))) := by
  have hk : ¬ Config.expLen ≤ k := Nat.not_le.2 (memRead_eq_next.1 h).1
  rw [exec_of_readsTables rfl, resultOf, if_neg hk, expLookup, h, andThen_next, withTables_next hs]

theorem exec_exprd_of_le {s : State} (hs : s.initState = .ready) {k : Nat} (hk : 510 ≤ k) :
    exec (.exprd k) s = .next (s.setRsp (some (.error .invalidArgument))) := by
  have hlen : Config.expLen ≤ k := hk
  rw [exec_of_readsTables rfl, resultOf, if_pos hlen, withTables_next hs]

/-- On built tables EXPRD answers the generator to the power `k mod 255` (R102). -/
theorem State.Built.exec_exprd {s : State} (h : s.Built) {k : Nat} (hk : k < 510) :
    exec (.exprd k) s = .next (s.setRsp (some (.ok (generatorPower Config.poly (k % 255))))) := by
  obtain ⟨hready, hlog, hexp, -⟩ := h
  exact Machine.exec_exprd hready (expLookup_eq_generatorPower hlog hexp hk)

/-- Settles O18: the range test of EXPRD comes before the read and after the test for `FAILED`; on built tables what is
read is a power of the generator, and no power is 0. -/
theorem exprdAnswersTheEntry : Obligations.ExprdAnswersTheEntry := by
  refine ⟨fun a b n => decode_pack_of_operandsIn (c := .exprd n.toNat) (nField_pack _ _ _ _), fun n => ?_,
    fun s k d hs _ => exec_exprd hs, fun s k hs => exec_exprd_of_le hs, fun s k => exec_failed rfl, fun s k h hk => ?_⟩
  · rw [encode, BitVec.ofNat_toNat, BitVec.setWidth_eq]
    rfl
  · exact ⟨h.exec_exprd hk, generatorPower_ne_zero (valid_of_ok h.generateLogTable_eq) _⟩

/-! ## The round trip (R104) -/

/-- Settles O28: LOGRD answers the exponent of a power of the generator, EXPRD the power of an exponent, and the exponents
count modulo 255. -/
theorem logAndExpRoundTrip : Obligations.LogAndExpRoundTrip := by
  refine fun s h => ⟨fun e he => ?_, fun k hk => ?_, fun k hk => ?_⟩
  · obtain ⟨l, hl, hlogrd, hpow⟩ := h.exists_exec_logrd he
    have hexprd := h.exec_exprd (k := l.toNat) (by omega)
    rw [Nat.mod_eq_of_lt (by omega), hpow] at hexprd
    exact ⟨l, hlogrd, hexprd⟩
  · exact ⟨_, h.exec_exprd hk, h.exec_logrd_generatorPower (Nat.mod_lt _ (by decide))⟩
  · rw [h.exec_exprd (by omega), h.exec_exprd (by omega), Nat.add_mod_right]

end Sys2Proof.Machine

/-! # O12 to O16 and O29 to O33: the field operations (42_field_ops.md) -/

namespace Sys2Proof.Machine

/-! ## Functions that respect exclusive or -/

/-- `f` takes sums to sums: exclusive or is the addition, of field elements and of longer polynomials (R111, R122). -/
def XorLinear {m n : Nat} (f : BitVec m → BitVec n) : Prop := ∀ x y, f (x ^^^ y) = f x ^^^ f y

theorem XorLinear.comp {l m n : Nat} {f : BitVec m → BitVec n} {g : BitVec l → BitVec m} (hf : XorLinear f)
    (hg : XorLinear g) : XorLinear (fun x => f (g x)) :=
  fun x y => (congrArg f (hg x y)).trans (hf _ _)

theorem XorLinear.map_zero {m n : Nat} {f : BitVec m → BitVec n} (hf : XorLinear f) : f 0#m = 0#n := by
  simpa using hf 0#m 0#m

theorem setWidth_succ_eq_xor_twoPow (b : Byte) (n : Nat) :
    (b.setWidth (n + 1)).setWidth 8 =
      (b.setWidth n).setWidth 8 ^^^ if b.getLsbD n then BitVec.twoPow 8 n else 0#8 := by
  ext i hi
  simp only [BitVec.getElem_xor, BitVec.getElem_setWidth, BitVec.getLsbD_setWidth, apply_ite (fun x : Byte => x[i]),
    BitVec.getElem_twoPow, BitVec.getElem_zero]
  grind

/-- Two such functions of a byte are equal if they are at the eight powers of x, of which every byte is a sum. -/
theorem XorLinear.eq_of_twoPow {f g : Byte → Byte} (hf : XorLinear f) (hg : XorLinear g)
    (h : ∀ k < 8, f (BitVec.twoPow 8 k) = g (BitVec.twoPow 8 k)) (b : Byte) : f b = g b := by
  have hlow (n : Nat) (hn : n ≤ 8) : f ((b.setWidth n).setWidth 8) = g ((b.setWidth n).setWidth 8) := by
    induction n with
    | zero => rw [BitVec.of_length_zero (x := b.setWidth 0)]; exact hf.map_zero.trans hg.map_zero.symm
    | succ n ih =>
      rw [setWidth_succ_eq_xor_twoPow, hf, hg, ih (by omega)]
      split
      · rw [h n (by omega)]
      · rw [hf.map_zero, hg.map_zero]
  simpa using hlow 8 le_rfl

/-- Adding `t` when a bit is set respects exclusive or, of what it is added to and of the bit. -/
theorem ite_xor_xor {n : Nat} (c c' : Bool) (r r' t : BitVec n) :
    (if c then r ^^^ t else r) ^^^ (if c' then r' ^^^ t else r') =
      if c ^^ c' then r ^^^ r' ^^^ t else r ^^^ r' :=
  match c, c' with
  | false, false => rfl
  | false, true => (BitVec.xor_assoc r r' t).symm
  | true, false => show r ^^^ t ^^^ r' = r ^^^ r' ^^^ t by ac_rfl
  | true, true =>
    calc
      r ^^^ t ^^^ (r' ^^^ t) = r ^^^ r' ^^^ (t ^^^ t) := by ac_rfl
      _ = r ^^^ r' := by rw [BitVec.xor_self, BitVec.xor_zero]

/-! ## The table-free product (R122) -/

theorem xorLinear_double (p : Byte) : XorLinear (double · p) := fun x y => by
  have h : (double (x ^^^ y) p).zeroExtend 9 = (double x p ^^^ double y p).zeroExtend 9 := by
    simp only [BitVec.setWidth_xor, zeroExtend_double, ite_xor_xor, BitVec.getLsbD_xor, BitVec.shiftLeft_xor_distrib]
  simpa using congrArg (BitVec.setWidth 8) h

theorem xorLinear_clmul_left (b : Byte) : XorLinear (clmul · b) := fun x y => by
  refine List.foldl_hom₂ _ (· ^^^ ·) _ _ _ 0#15 0#15 fun r r' i => ?_
  split
  · simp only [BitVec.setWidth_xor, BitVec.shiftLeft_xor_distrib]
    ac_rfl
  · rfl

theorem xorLinear_clmul_right (a : Byte) : XorLinear (clmul a) := fun x y => by
  refine List.foldl_hom₂ _ (· ^^^ ·) _ _ _ 0#15 0#15 fun r r' i => ?_
  rw [ite_xor_xor, BitVec.getLsbD_xor]

theorem xorLinear_polyReduce : XorLinear polyReduce := fun x y => by
  unfold polyReduce
  rw [← BitVec.setWidth_xor]
  refine congrArg _ (List.foldl_hom₂ _ (· ^^^ ·) _ _ _ x y fun r r' i => ?_)
  rw [ite_xor_xor, BitVec.getLsbD_xor]

theorem xorLinear_polymul_left (b : Byte) : XorLinear (polymul · b) :=
  xorLinear_polyReduce.comp (xorLinear_clmul_left b)

theorem xorLinear_polymul_right (a : Byte) : XorLinear (polymul a) :=
  xorLinear_polyReduce.comp (xorLinear_clmul_right a)

@[simp] theorem polymul_zero (a : Byte) : polymul a 0#8 = 0#8 := (xorLinear_polymul_right a).map_zero

@[simp] theorem zero_polymul (b : Byte) : polymul 0#8 b = 0#8 := (xorLinear_polymul_left b).map_zero

@[simp] theorem polymul_one (a : Byte) : polymul a 1#8 = a :=
  (xorLinear_polymul_left 1#8).eq_of_twoPow (g := fun a => a) (fun _ _ => rfl) (by decide) a

/-- By evaluation at the powers of x. -/
theorem polymul_double_twoPow : ∀ i < 8, ∀ k < 8,
    polymul (BitVec.twoPow 8 i) (double (BitVec.twoPow 8 k) Config.poly) =
      double (polymul (BitVec.twoPow 8 i) (BitVec.twoPow 8 k)) Config.poly := by decide +kernel

/-- Doubling a factor doubles the product: the doubling step multiplies by x modulo 0x11D (R81). -/
theorem polymul_double (a b : Byte) : polymul a (double b Config.poly) = double (polymul a b) Config.poly := by
  have hdouble := xorLinear_double Config.poly
  refine ((xorLinear_polymul_right a).comp hdouble).eq_of_twoPow (hdouble.comp (xorLinear_polymul_right a))
    (fun k hk => ?_) b
  exact (xorLinear_polymul_left _).eq_of_twoPow (hdouble.comp (xorLinear_polymul_left _))
    (fun i hi => polymul_double_twoPow i hi k hk) a

/-! ## Products of powers of the generator -/

theorem polymul_generatorPower (a : Byte) (j : Nat) :
    polymul a (generatorPower Config.poly j) = (double · Config.poly)^[j] a := by
  induction j with
  | zero => exact polymul_one a
  | succ j ih => rw [generatorPower_succ, polymul_double, ih, Function.iterate_succ_apply']

/-- The product of two powers of the generator is the power of the sum of their exponents. -/
theorem polymul_generatorPower_add (i j : Nat) :
    polymul (generatorPower Config.poly i) (generatorPower Config.poly j) = generatorPower Config.poly (i + j) := by
  rw [polymul_generatorPower, ← generatorPower_add, Nat.add_comm]

theorem poly_valid : Config.poly ∈ validPolynomials := by decide

/-- The generator to the power 255 is 1: it is none of the powers 1 to 254, for dividing by it would give a repeat. -/
theorem generatorPower_groupOrder {p : Byte} (h : p ∈ validPolynomials) : generatorPower p 255 = 1#8 := by
  obtain ⟨i, hi, heq⟩ := exists_generatorPower_eq h (generatorPower_ne_zero h 255)
  have hone : generatorPower p (255 - i) = 1#8 := Function.iterate_cancel (double_injective_of_valid h) heq.symm
  rcases Nat.eq_zero_or_pos i with rfl | hpos
  · exact hone
  · have := generatorPower_injOn (not_generatorRepeats_of_valid h) (i := 255 - i) (j := 0) (by omega) (by omega) hone
    omega

/-- Exponents of the generator count modulo 255. -/
theorem generatorPower_mod {p : Byte} (h : p ∈ validPolynomials) (k : Nat) :
    generatorPower p (k % 255) = generatorPower p k :=
  Function.IsPeriodicPt.iterate_mod_apply (generatorPower_groupOrder h) k

theorem eq_zero_or_generatorPower (a : Byte) : a = 0#8 ∨ ∃ i < 255, generatorPower Config.poly i = a :=
  or_iff_not_imp_left.2 (exists_generatorPower_eq poly_valid)

/-! ## The laws of the product (R123) -/

theorem polymul_comm (a b : Byte) : polymul a b = polymul b a := by
  rcases eq_zero_or_generatorPower a with rfl | ⟨i, -, rfl⟩
  · rw [zero_polymul, polymul_zero]
  rcases eq_zero_or_generatorPower b with rfl | ⟨j, -, rfl⟩
  · rw [zero_polymul, polymul_zero]
  rw [polymul_generatorPower_add, polymul_generatorPower_add, Nat.add_comm]

theorem polymul_assoc (a b c : Byte) : polymul (polymul a b) c = polymul a (polymul b c) := by
  rcases eq_zero_or_generatorPower a with rfl | ⟨i, -, rfl⟩
  · simp only [zero_polymul]
  rcases eq_zero_or_generatorPower b with rfl | ⟨j, -, rfl⟩
  · simp only [zero_polymul, polymul_zero]
  rcases eq_zero_or_generatorPower c with rfl | ⟨k, -, rfl⟩
  · simp only [polymul_zero]
  simp only [polymul_generatorPower_add, Nat.add_assoc]

@[simp] theorem one_polymul (b : Byte) : polymul 1#8 b = b := by rw [polymul_comm, polymul_one]

theorem polymul_ne_zero {a b : Byte} (ha : a ≠ 0#8) (hb : b ≠ 0#8) : polymul a b ≠ 0#8 := by
  obtain ⟨i, -, rfl⟩ := exists_generatorPower_eq poly_valid ha
  obtain ⟨j, -, rfl⟩ := exists_generatorPower_eq poly_valid hb
  rw [polymul_generatorPower_add]
  exact generatorPower_ne_zero poly_valid _

/-! ## Repeated products and inverses (R121, R123) -/

/-- 1 multiplied `n` times by `a`. -/
def polyPow (a : Byte) (n : Nat) : Byte := (fun r => polymul r a)^[n] 1#8

@[simp] theorem polyPow_zero (a : Byte) : polyPow a 0 = 1#8 := rfl

theorem polyPow_succ (a : Byte) (n : Nat) : polyPow a (n + 1) = polymul (polyPow a n) a :=
  Function.iterate_succ_apply' _ _ _

@[simp] theorem polyPow_one (a : Byte) : polyPow a 1 = a := one_polymul a

theorem polyPow_two (a : Byte) : polyPow a 2 = polymul a a := by rw [polyPow_succ, polyPow_one]

theorem zero_polyPow {n : Nat} (h : 0 < n) : polyPow 0#8 n = 0#8 := by
  obtain ⟨m, rfl⟩ := Nat.exists_eq_succ_of_ne_zero h.ne'
  rw [Nat.succ_eq_add_one, polyPow_succ, polymul_zero]

theorem polyPow_generatorPower (i n : Nat) :
    polyPow (generatorPower Config.poly i) n = generatorPower Config.poly (i * n) := by
  induction n with
  | zero => rfl
  | succ n ih => rw [polyPow_succ, ih, polymul_generatorPower_add, Nat.mul_succ]

theorem one_polyPow (n : Nat) : polyPow 1#8 n = 1#8 := by
  simpa using polyPow_generatorPower 0 n

/-- The order of every nonzero element divides 255. -/
theorem polyPow_groupOrder {a : Byte} (h : a ≠ 0#8) : polyPow a 255 = 1#8 := by
  obtain ⟨i, -, rfl⟩ := exists_generatorPower_eq poly_valid h
  rw [polyPow_generatorPower, ← generatorPower_mod poly_valid, Nat.mul_mod_left, generatorPower_zero]

theorem polyPow_mod {a : Byte} (h : a ≠ 0#8) (n : Nat) : polyPow a (n % 255) = polyPow a n :=
  Function.IsPeriodicPt.iterate_mod_apply (polyPow_groupOrder h) n

/-- The inverse of a nonzero element, its power 254. -/
def polyInv (a : Byte) : Byte := polyPow a 254

theorem polyInv_polymul {a : Byte} (h : a ≠ 0#8) : polymul (polyInv a) a = 1#8 := by
  rw [polyInv, ← polyPow_succ, polyPow_groupOrder h]

theorem polymul_polyInv {a : Byte} (h : a ≠ 0#8) : polymul a (polyInv a) = 1#8 := by
  rw [polymul_comm, polyInv_polymul h]

theorem polymul_polymul_polyInv {b : Byte} (h : b ≠ 0#8) (a : Byte) : polymul (polymul a b) (polyInv b) = a := by
  rw [polymul_assoc, polymul_polyInv h, polymul_one]

theorem polymul_polyInv_polymul {b : Byte} (h : b ≠ 0#8) (a : Byte) : polymul (polymul a (polyInv b)) b = a := by
  rw [polymul_assoc, polyInv_polymul h, polymul_one]

theorem eq_polyInv_of_polymul_eq_one {a u : Byte} (ha : a ≠ 0#8) (h : polymul a u = 1#8) : u = polyInv a := by
  rw [← polymul_polymul_polyInv ha u, polymul_comm u, h, one_polymul]

theorem polyInv_generatorPower (j : Nat) :
    polyInv (generatorPower Config.poly j) = generatorPower Config.poly (j * 254) :=
  polyPow_generatorPower j 254

/-! ## MUL, DIV and EXP on any tables (R113, R114, R115) -/

theorem logarithm_of_holds {s : State} {a l : Byte} (h : s.Holds .log a.toNat l) (hl : l ≠ 0xFF#8) :
    logarithm a s = .next l.toNat := by
  have hentry : LogEntry.ofByte l = .log l.toNat := if_neg hl
  rw [logarithm, logLookup, h, andThen_next, andThen_next, hentry]

section
variable {s : State} {a b d : Byte} {la lb : Nat}

theorem multiply_of_zero (h : a = 0#8 ∨ b = 0#8) : multiply a b s = .next 0#8 := if_pos h

theorem multiply_of_logarithms (ha : a ≠ 0#8) (hb : b ≠ 0#8) (hla : logarithm a s = .next la)
    (hlb : logarithm b s = .next lb) : multiply a b s = expLookup (sumIndex la lb) s := by
  rw [multiply, if_neg (not_or.2 ⟨ha, hb⟩), hla, andThen_next, hlb, andThen_next]

theorem divide_by_zero : divide a 0#8 s = .next (.error .invalidArgument) := if_pos rfl

theorem zero_divide (hb : b ≠ 0#8) : divide 0#8 b s = .next (.ok 0#8) := by
  rw [divide, if_neg hb, if_pos rfl]

theorem divide_of_logarithms (ha : a ≠ 0#8) (hb : b ≠ 0#8) (hla : logarithm a s = .next la)
    (hlb : logarithm b s = .next lb) (hd : expLookup (diffIndex la lb) s = .next d) : divide a b s = .next (.ok d) := by
  rw [divide, if_neg hb, if_neg ha, hla, andThen_next, hlb, andThen_next, hd, andThen_next]

theorem power_zero : power a 0 s = .next 1#8 := if_pos rfl

theorem zero_power {n : Nat} (hn : 0 < n) : power 0#8 n s = .next 0#8 := by
  rw [power, if_neg hn.ne', if_pos rfl]

theorem power_of_logarithm {n : Nat} (hn : 0 < n) (ha : a ≠ 0#8) (hla : logarithm a s = .next la) :
    power a n s = expLookup (powIndex la n) s := by
  rw [power, if_neg hn.ne', if_neg ha, hla, andThen_next]

variable (hs : s.initState = .ready)
include hs

theorem exec_mul_of_multiply (h : multiply a b s = .next d) : exec (.mul a b) s = .next (s.setRsp (some (.ok d))) := by
  rw [exec_of_readsTables rfl, resultOf, h, andThen_next, withTables_next hs]

theorem exec_div_of_divide {r : Response} (h : divide a b s = .next r) :
    exec (.div a b) s = .next (s.setRsp (some r)) := by
  rw [exec_of_readsTables rfl, resultOf, h, withTables_next hs]

theorem exec_exp_of_power {n : Nat} (h : power a n s = .next d) :
    exec (.exp a n) s = .next (s.setRsp (some (.ok d))) := by
  rw [exec_of_readsTables rfl, resultOf, h, andThen_next, withTables_next hs]

end

section
variable {s : State} (hs : s.initState = .ready) {a b d : Byte}
include hs

theorem exec_mul_of_holds {la lb : Byte} (ha : a ≠ 0#8) (hb : b ≠ 0#8) (hla : s.Holds .log a.toNat la)
    (hla' : la ≠ 0xFF#8) (hlb : s.Holds .log b.toNat lb) (hlb' : lb ≠ 0xFF#8)
    (hd : s.Holds .exp (sumIndex la.toNat lb.toNat) d) : exec (.mul a b) s = .next (s.setRsp (some (.ok d))) :=
  exec_mul_of_multiply hs
    ((multiply_of_logarithms ha hb (logarithm_of_holds hla hla') (logarithm_of_holds hlb hlb')).trans hd)

theorem exec_div_of_holds {la lb : Byte} (ha : a ≠ 0#8) (hb : b ≠ 0#8) (hla : s.Holds .log a.toNat la)
    (hla' : la ≠ 0xFF#8) (hlb : s.Holds .log b.toNat lb) (hlb' : lb ≠ 0xFF#8)
    (hd : s.Holds .exp (diffIndex la.toNat lb.toNat) d) : exec (.div a b) s = .next (s.setRsp (some (.ok d))) :=
  exec_div_of_divide hs
    (divide_of_logarithms ha hb (logarithm_of_holds hla hla') (logarithm_of_holds hlb hlb') hd)

theorem exec_exp_of_holds {l : Byte} {n : Nat} (hn : 0 < n) (ha : a ≠ 0#8) (hl : s.Holds .log a.toNat l)
    (hl' : l ≠ 0xFF#8) (hd : s.Holds .exp (powIndex l.toNat n) d) :
    exec (.exp a n) s = .next (s.setRsp (some (.ok d))) :=
  exec_exp_of_power hs ((power_of_logarithm hn ha (logarithm_of_holds hl hl')).trans hd)

end

/-- DIV's index in natural numbers: 255 is added before the subtraction. -/
theorem diffIndex_eq (la lb : Nat) :
    diffIndex la lb = if (la : Int) - lb < 0 then la + 255 - lb else la - lb := by
  simp only [diffIndex, Config.groupOrder]
  split <;> omega

/-- Modulo 255, taking `j` off is adding `254 * j`. -/
theorem diffIndex_mod {i j : Nat} (hi : i < 255) (hj : j < 255) : diffIndex i j % 255 = (i + j * 254) % 255 := by
  rw [diffIndex_eq]
  split <;> omega

/-! ## MUL, DIV and EXP on built tables -/

section
variable {s : State} (h : s.Built)
include h

theorem State.Built.logarithm_generatorPower {i : Nat} (hi : i < 255) :
    logarithm (generatorPower Config.poly i) s = .next i :=
  Machine.logarithm_generatorPower h.generateLogTable_eq hi

theorem State.Built.expLookup_eq {k : Nat} (hk : k < 510) : expLookup k s = .next (generatorPower Config.poly k) := by
  obtain ⟨-, hlog, hexp, -⟩ := h
  rw [expLookup_eq_generatorPower hlog hexp hk, generatorPower_mod poly_valid]

theorem State.Built.multiply_eq (a b : Byte) : multiply a b s = .next (polymul a b) := by
  rcases eq_zero_or_generatorPower a with rfl | ⟨i, hi, rfl⟩
  · rw [multiply_of_zero (.inl rfl), zero_polymul]
  rcases eq_zero_or_generatorPower b with rfl | ⟨j, hj, rfl⟩
  · rw [multiply_of_zero (.inr rfl), polymul_zero]
  have hne := generatorPower_ne_zero poly_valid
  rw [multiply_of_logarithms (hne i) (hne j) (h.logarithm_generatorPower hi) (h.logarithm_generatorPower hj),
    h.expLookup_eq (sumIndex_lt hi hj), polymul_generatorPower_add, sumIndex]

theorem State.Built.divide_eq (a : Byte) {b : Byte} (hb : b ≠ 0#8) :
    divide a b s = .next (.ok (polymul a (polyInv b))) := by
  rcases eq_zero_or_generatorPower a with rfl | ⟨i, hi, rfl⟩
  · rw [zero_divide hb, zero_polymul]
  obtain ⟨j, hj, rfl⟩ := exists_generatorPower_eq poly_valid hb
  have hne := generatorPower_ne_zero poly_valid
  rw [divide_of_logarithms (hne i) hb (h.logarithm_generatorPower hi) (h.logarithm_generatorPower hj)
    (h.expLookup_eq (diffIndex_lt hi hj)), polyInv_generatorPower, polymul_generatorPower_add,
    ← generatorPower_mod poly_valid, diffIndex_mod hi hj, generatorPower_mod poly_valid]

theorem State.Built.power_eq (a : Byte) (n : Nat) : power a n s = .next (polyPow a n) := by
  rcases Nat.eq_zero_or_pos n with rfl | hn
  · rw [power_zero, polyPow_zero]
  rcases eq_zero_or_generatorPower a with rfl | ⟨i, hi, rfl⟩
  · rw [zero_power hn, zero_polyPow hn]
  rw [power_of_logarithm hn (generatorPower_ne_zero poly_valid i) (h.logarithm_generatorPower hi),
    h.expLookup_eq (powIndex_lt i n), powIndex, generatorPower_mod poly_valid, polyPow_generatorPower]

theorem State.Built.exec_mul (a b : Byte) : exec (.mul a b) s = .next (s.setRsp (some (.ok (polymul a b)))) :=
  exec_mul_of_multiply h.1 (h.multiply_eq a b)

theorem State.Built.exec_div (a : Byte) {b : Byte} (hb : b ≠ 0#8) :
    exec (.div a b) s = .next (s.setRsp (some (.ok (polymul a (polyInv b))))) :=
  exec_div_of_divide h.1 (h.divide_eq a hb)

theorem State.Built.exec_exp (a : Byte) (n : Nat) : exec (.exp a n) s = .next (s.setRsp (some (.ok (polyPow a n)))) :=
  exec_exp_of_power h.1 (h.power_eq a n)

/-- DIV answers the element whose product with the divisor is the dividend. -/
theorem State.Built.exec_div_of_polymul {a b q : Byte} (hb : b ≠ 0#8) (hq : polymul q b = a) :
    exec (.div a b) s = .next (s.setRsp (some (.ok q))) := by
  rw [h.exec_div a hb, ← hq, polymul_polymul_polyInv hb]

end

/-! ## ADD and SUB (R111, R112) -/

theorem exec_add (a b : Byte) (s : State) : exec (.add a b) s = .next (s.setRsp (some (.ok (a ^^^ b)))) := rfl

theorem exec_sub (a b : Byte) (s : State) : exec (.sub a b) s = .next (s.setRsp (some (.ok (a ^^^ b)))) := rfl

theorem xor_xor_self (a b : Byte) : a ^^^ b ^^^ b = a := by
  rw [BitVec.xor_assoc, BitVec.xor_self, BitVec.xor_zero]

/-- Settles O12: ADD reads no table and tests no state. -/
theorem addAnswersXor : Obligations.AddAnswersXor := by
  refine ⟨fun a b n => decode_pack_of_operandsIn (c := .add a b) ⟨aField_pack _ _ _ _, bField_pack _ _ _ _⟩,
    fun a b => rfl, fun s a b _ => exec_add a b s, fun s a _ => ⟨?_, ?_⟩⟩
  · rw [exec_add, BitVec.xor_zero]
  · rw [exec_add, BitVec.xor_self]

/-- Settles O13: SUB is the function ADD is, and exclusive or is commutative. -/
theorem subAnswersXor : Obligations.SubAnswersXor := by
  refine ⟨fun a b n => decode_pack_of_operandsIn (c := .sub a b) ⟨aField_pack _ _ _ _, bField_pack _ _ _ _⟩,
    fun a b => rfl, fun s a b _ => ⟨exec_sub a b s, rfl, ?_, ?_, ?_⟩⟩
  · rw [exec_sub, exec_sub, BitVec.xor_comm]
  · rw [exec_sub, BitVec.zero_xor]
  · rw [exec_sub, BitVec.xor_self]

/-! ## MUL (R113) -/

/-- By evaluation: the products R113 lists. -/
theorem polymul_listed : polymul 2#8 142#8 = 1#8 ∧ polymul 142#8 142#8 = 71#8 ∧ polymul 3#8 7#8 = 9#8 := by decide

/-- Settles O14: the two tests and the index of `multiply`; on built tables the answer is the table-free product. -/
theorem mulReadsExpAtTheSumOfLogs : Obligations.MulReadsExpAtTheSumOfLogs := by
  obtain ⟨h2, h142, h3⟩ := polymul_listed
  refine ⟨fun a b n => decode_pack_of_operandsIn (c := .mul a b) ⟨aField_pack _ _ _ _, bField_pack _ _ _ _⟩,
    fun a b => rfl, fun s a b hs hzero => exec_mul_of_multiply hs (multiply_of_zero hzero),
    fun s a b la lb d hs => exec_mul_of_holds hs,
    fun s h => ⟨fun a => ?_, fun a b ha hb => ⟨_, polymul_ne_zero ha hb, h.exec_mul a b⟩, ?_, ?_, ?_⟩⟩
  · rw [h.exec_mul, polymul_one]
  · rw [h.exec_mul, h2]
  · rw [h.exec_mul, h142]
  · rw [h.exec_mul, h3]

/-! ## DIV (R114, R120) -/

/-- Settles O15: the two tests and the index of `divide`; on built tables the answer is the element whose product with
the divisor is the dividend. -/
theorem divReadsExpAtTheDifferenceOfLogs : Obligations.DivReadsExpAtTheDifferenceOfLogs := by
  obtain ⟨h2, -, h3⟩ := polymul_listed
  refine ⟨fun a b n => decode_pack_of_operandsIn (c := .div a b) ⟨aField_pack _ _ _ _, bField_pack _ _ _ _⟩,
    fun a b => rfl, fun s a hs => exec_div_of_divide hs divide_by_zero,
    fun s b hs hb => exec_div_of_divide hs (zero_divide hb),
    fun s a b la lb d hs ha hb hla hla' hlb hlb' hd => exec_div_of_holds hs ha hb hla hla' hlb hlb' ?_,
    fun s h => ⟨fun a ha => h.exec_div_of_polymul ha (one_polymul a),
      fun a => h.exec_div_of_polymul (by decide) (polymul_one a), fun a b hb => ⟨_, h.exec_div a hb, ?_⟩,
      h.exec_div_of_polymul (by decide) h2, h.exec_div_of_polymul (by decide) h3⟩⟩
  · rwa [diffIndex_eq]
  · rw [h.exec_mul, polymul_polyInv_polymul hb]

/-! ## EXP (R115, R121) -/

/-- By evaluation: x^8 is x^4 + x^3 + x^2 + 1. -/
theorem polyPow_two_eight : polyPow 2#8 8 = 29#8 := by decide +kernel

/-- Settles O16: the two tests and the index of `power`; on built tables the answer is the repeated product, whose
exponent counts modulo 255. -/
theorem expReadsExpAtTheProductModulo255 : Obligations.ExpReadsExpAtTheProductModulo255 := by
  refine ⟨fun a b n => decode_pack_of_operandsIn (c := .exp a n.toNat) ⟨aField_pack _ _ _ _, nField_pack _ _ _ _⟩,
    fun a n => ?_, fun s a hs => exec_exp_of_power hs power_zero, fun s n hs hn => exec_exp_of_power hs (zero_power hn),
    fun s a l d n hs => exec_exp_of_holds hs, fun l n => Nat.mul_mod_mod _ _ _,
    fun s a l d n hs hn ha hl hl' hd => exec_exp_of_holds hs hn ha hl hl' ?_,
    fun s h => ⟨fun a => ?_, fun a => ?_, fun n => ?_, fun a ha => ⟨?_, ?_, ?_, ?_⟩, ?_⟩⟩
  · rw [encode, BitVec.ofNat_toNat, BitVec.setWidth_eq]
    rfl
  · rwa [Nat.mul_mod_mod] at hd
  · rw [h.exec_exp, polyPow_one]
  · rw [h.exec_exp, h.exec_mul, polyPow_two]
  · rw [h.exec_exp, one_polyPow]
  · rw [h.exec_exp, polyPow_groupOrder ha]
  · rw [h.exec_exp, polyPow_succ, polyPow_groupOrder ha, one_polymul]
  · rw [h.exec_exp, h.exec_div 1#8 ha, one_polymul, polyInv]
  · rw [h.exec_exp, ← polyPow_mod ha, (by norm_num : 4294967295 % 255 = 0), polyPow_zero]
  · rw [h.exec_exp, polyPow_two_eight]

/-! ## The laws (R117 to R123) -/

/-- Settles O29: 1 and 0 in the table-free product, and exclusive or with the same byte twice. -/
theorem identitiesAndSelfInverse : Obligations.IdentitiesAndSelfInverse := by
  refine fun s h => ⟨fun a => ⟨?_, ?_, ?_⟩, fun a b n => ⟨_, _, _, _, exec_add a b s, exec_sub a b s, h.exec_mul a b,
    h.exec_exp a n, ?_, ?_, ?_, ?_⟩, fun a b hb => ⟨_, h.exec_div a hb⟩⟩
  · rw [exec_add, BitVec.xor_zero]
  · rw [h.exec_mul, polymul_one]
  · rw [h.exec_mul, polymul_zero]
  all_goals simp only [exec_add, exec_sub, xor_xor_self]

/-- Settles O30: a product of `a` and `b` is a dividend whose quotient by one of them is the other. -/
theorem divisionUndoesMultiplication : Obligations.DivisionUndoesMultiplication := fun _ h a b ha hb =>
  ⟨_, h.exec_mul a b, h.exec_div_of_polymul hb rfl, h.exec_div_of_polymul ha (polymul_comm b a)⟩

/-- Settles O31: on built tables EXP answers the repeated product, which the next multiplication extends. -/
theorem expIsRepeatedMultiplication : Obligations.ExpIsRepeatedMultiplication := by
  refine fun s h => ⟨h.exec_exp, fun a n => ⟨_, _, h.exec_exp a n, h.exec_mul _ a, ?_⟩,
    fun a => ⟨h.exec_exp a 0, ?_, ?_⟩, fun n hn => ?_⟩
  · rw [h.exec_exp, polyPow_succ]
  · rw [h.exec_exp, polyPow_one]
  · rw [h.exec_exp, h.exec_mul, polyPow_two]
  · rw [h.exec_exp, zero_polyPow hn]

/-- Settles O32: both products take powers of the generator to the power of the sum of their exponents. -/
theorem mulIsPolynomialMultiplication : Obligations.MulIsPolynomialMultiplication := fun _ h => h.exec_mul

/-- Settles O33: the laws of the table-free product, with power 254 as the inverse. -/
theorem commandsFormAField : Obligations.CommandsFormAField := by
  refine fun s h => ⟨(· ^^^ ·), polymul, fun a b => exec_add a b s, h.exec_mul, polymul_comm, polymul_assoc,
    xorLinear_polymul_right, BitVec.xor_comm, BitVec.xor_assoc, fun a ha => ⟨polyInv a, ?_, polymul_polyInv ha,
    fun u => eq_polyInv_of_polymul_eq_one ha⟩, fun a b hb => ⟨polyInv b, ?_, h.exec_div a hb⟩⟩
  · exact h.exec_div_of_polymul ha (polyInv_polymul ha)
  · exact h.exec_div_of_polymul hb (polyInv_polymul hb)

end Sys2Proof.Machine

/-! # O19, O34: the multiplication table and MULRD (43_mult_table_builder.md) -/

namespace Sys2Proof.Machine

/-! ## MULRD (R143, R144) -/

theorem exec_mulrd {s : State} (hs : s.initState = .ready) {a b d : Byte}
    (h : s.Holds .mulTab (mulIndex a b) d) : exec (.mulrd a b) s = .next (s.setRsp (some (.ok d))) := by
  rw [exec_of_readsTables rfl, resultOf, h, andThen_next, withTables_next hs]

/-- A command that reads a table is given its response by `INIT_STATE` and by what it computes. -/
theorem reply_congr_of_readsTables {i : Instr} (hi : i.readsTables = true) {s t : State}
    (hinit : s.initState = t.initState) (hres : resultOf i s = resultOf i t) : reply i s = reply i t := by
  simp only [reply, exec_of_readsTables hi, withTables, hinit, hres]
  cases t.initState <;> cases resultOf i t <;> rfl

/-- Of the tables, MULRD reads `MULTAB` alone. -/
theorem reply_mulrd_congr {s t : State} (hinit : s.initState = t.initState) (hmul : s.mulTab = t.mulTab) (a b : Byte) :
    reply (.mulrd a b) s = reply (.mulrd a b) t := by
  have hread : memRead .mulTab (mulIndex a b) s = memRead .mulTab (mulIndex a b) t := memRead_congr hmul
  exact reply_congr_of_readsTables rfl hinit (by simp only [resultOf, hread])

section
variable {s : State} (h : s.Built)
include h

/-- The built table holds the table-free product of every pair. -/
theorem State.Built.holds_mulTab (a b : Byte) : s.Holds .mulTab (mulIndex a b) (polymul a b) :=
  holds_mulTab_of_multiply h.2.2.2 (h.multiply_eq a b)

theorem State.Built.exec_mulrd (a b : Byte) : exec (.mulrd a b) s = .next (s.setRsp (some (.ok (polymul a b)))) :=
  Machine.exec_mulrd h.1 (h.holds_mulTab a b)

end

/-- Settles O19: MULRD reads one entry of `MULTAB` and no other table; on built tables the entry is the table-free
product. -/
theorem mulrdAnswersTheEntry : Obligations.MulrdAnswersTheEntry := by
  obtain ⟨-, h142, h3⟩ := polymul_listed
  refine ⟨fun a b n => decode_pack_of_operandsIn (c := .mulrd a b) ⟨aField_pack _ _ _ _, bField_pack _ _ _ _⟩,
    fun a b => rfl, fun s a b d hs => exec_mulrd hs, fun s a b => exec_failed rfl,
    fun s a b l e => reply_mulrd_congr (by simp) (by simp) a b,
    fun s a b h => ⟨?_, ?_, ?_, ?_, ?_, h.exec_mulrd a b⟩⟩
  · rw [h.exec_mulrd, zero_polymul]
  · rw [h.exec_mulrd, polymul_zero]
  · rw [h.exec_mulrd, h.exec_mulrd, polymul_comm]
  · rw [h.exec_mulrd, h142]
  · rw [h.exec_mulrd, h3]

/-! ## Rows and columns (R141) -/

/-- Multiplying by the inverse of `a` undoes multiplying by `a`. -/
theorem bijective_polymul_left {a : Byte} (ha : a ≠ 0#8) : Function.Bijective (polymul · a) :=
  Function.bijective_iff_has_inverse.2
    ⟨(polymul · (polyInv a)), polymul_polymul_polyInv ha, polymul_polyInv_polymul ha⟩

theorem bijective_polymul_right {a : Byte} (ha : a ≠ 0#8) : Function.Bijective (polymul a) := by
  rw [(funext fun b => polymul_comm a b : polymul a = (polymul · a))]
  exact bijective_polymul_left ha

/-- The 256 bytes, ascending. -/
def allBytes : List Byte := (List.range 256).map (BitVec.ofNat 8)

theorem mem_allBytes (b : Byte) : b ∈ allBytes :=
  List.mem_map.2 ⟨b.toNat, List.mem_range.2 b.isLt, by rw [BitVec.ofNat_toNat, BitVec.setWidth_eq]⟩

theorem nodup_allBytes : allBytes.Nodup := by decide +kernel

theorem sum_toNat_allBytes : (allBytes.map BitVec.toNat).sum = 32640 := by decide +kernel

theorem map_allBytes_perm {f : Byte → Byte} (hf : Function.Bijective f) : (allBytes.map f).Perm allBytes := by
  refine (List.perm_ext_iff_of_nodup (nodup_allBytes.map hf.injective) nodup_allBytes).2 fun b => ?_
  obtain ⟨c, rfl⟩ := hf.surjective b
  exact iff_of_true (List.mem_map_of_mem (mem_allBytes c)) (mem_allBytes _)

/-- A permutation of the bytes has the sum of all bytes. -/
theorem sum_toNat_of_bijective {f : Byte → Byte} (hf : Function.Bijective f) :
    ((List.range 256).map fun b => (f (BitVec.ofNat 8 b)).toNat).sum = 32640 := by
  have hsum := ((map_allBytes_perm hf).map BitVec.toNat).sum_eq
  rw [sum_toNat_allBytes, allBytes, List.map_map, List.map_map] at hsum
  exact hsum

/-! ## The sums of the table (R141) -/

theorem sum_polymul_row (a : Byte) :
    ((List.range 256).map fun b => (polymul a (BitVec.ofNat 8 b)).toNat).sum = if a = 0#8 then 0 else 32640 := by
  split
  case isTrue ha =>
    simp only [ha, zero_polymul, BitVec.toNat_ofNat, Nat.zero_mod, List.map_const', List.sum_replicate, smul_zero]
  case isFalse ha => exact sum_toNat_of_bijective (bijective_polymul_right ha)

theorem ofNat_ne_zero_of_lt {a : Nat} (hpos : 0 < a) (hlt : a < 256) : BitVec.ofNat 8 a ≠ 0#8 := fun hzero => by
  have := congrArg BitVec.toNat hzero
  simp only [BitVec.toNat_ofNat] at this
  omega

/-- Row 0 adds nothing, and each of the other 255 rows adds 32640. -/
theorem sum_polymul_table :
    ((List.range 256).map fun a =>
      ((List.range 256).map fun b => (polymul (BitVec.ofNat 8 a) (BitVec.ofNat 8 b)).toNat).sum).sum = 8323200 := by
  simp only [sum_polymul_row]
  decide +kernel

/-- Settles O34: the table is the table-free product, and a nonzero row or column is a permutation because its element
has an inverse. -/
theorem multTableIsTheProductTable : Obligations.MultTableIsTheProductTable := by
  refine fun s h => ⟨polymul, h.holds_mulTab, fun a b => ⟨h.exec_mulrd a b, h.exec_mul a b⟩, polymul_comm, ?_,
    fun a b => polymul_ne_zero, one_polymul, fun a ha => ⟨bijective_polymul_right ha, bijective_polymul_left ha⟩,
    fun a hpos hlt => ?_, sum_polymul_table⟩
  · rintro a b (rfl | rfl)
    · exact zero_polymul b
    · exact polymul_zero a
  · rw [sum_polymul_row, if_neg (ofNat_ne_zero_of_lt hpos hlt)]

end Sys2Proof.Machine

/-! # O27: the host's diagnostics (44_polynomial_diagnostics.md R150, R151) -/

namespace Sys2Proof.Machine

/-! ## The core state is kept along a run of commands -/

theorem State.SameCore.refl (s : State) : s.SameCore s := ⟨rfl, rfl, rfl, rfl⟩

theorem State.SameCore.trans {s t u : State} (hst : s.SameCore t) (htu : t.SameCore u) : s.SameCore u := by
  obtain ⟨hinit, hlog, hexp, hmul⟩ := hst
  obtain ⟨hinit', hlog', hexp', hmul'⟩ := htu
  exact ⟨hinit'.trans hinit, hlog'.trans hlog, hexp'.trans hexp, hmul'.trans hmul⟩

/-! ## One candidate -/

/-- The host takes what the generator reports; once it is taken, only the response register has been touched (R88). -/
theorem issue_polychk (p : Byte) (s : State) :
    issue (.polychk p) s = some (s.setRsp none, generatorResponse p) := rfl

/-- One round of the loop. `issue` is made a variable before the two sides are compared: otherwise the comparison runs
the generator on the unknown candidate, 255 doublings deep. -/
theorem probe_cons (p : Byte) (ps : List Byte) (s : State) :
    probe (p :: ps) s =
      match issue (.polychk p) s with
      | some (t, .ok _) => ((probe ps t).1, p :: (probe ps t).2)
      | some (t, .error _) => probe ps t
      | none => probe ps s := by
  delta probe probe._f
  generalize issue = f
  rfl

theorem probe_cons_of_valid {p : Byte} (h : p ∈ validPolynomials) (ps : List Byte) (s : State) :
    probe (p :: ps) s = ((probe ps (s.setRsp none)).1, p :: (probe ps (s.setRsp none)).2) := by
  rw [probe_cons, issue_polychk, generatorResponse_eq, if_pos h]

theorem probe_cons_of_not_valid {p : Byte} (h : p ∉ validPolynomials) (ps : List Byte) (s : State) :
    probe (p :: ps) s = probe ps (s.setRsp none) := by
  rw [probe_cons, issue_polychk, generatorResponse_eq, if_neg h]

/-! ## Any list of candidates -/

/-- The result is the valid candidates, in the order they were tried, whatever state the host starts from. -/
theorem probe_snd (ps : List Byte) (s : State) : (probe ps s).2 = ps.filter (· ∈ validPolynomials) := by
  induction ps generalizing s with
  | nil => rfl
  | cons p ps ih =>
    by_cases h : p ∈ validPolynomials
    · rw [probe_cons_of_valid h, List.filter_cons_of_pos (by simpa using h), ih]
    · rw [probe_cons_of_not_valid h, List.filter_cons_of_neg (by simpa using h), ih]

theorem sameCore_probe (ps : List Byte) (s : State) : s.SameCore (probe ps s).1 := by
  induction ps generalizing s with
  | nil => exact .refl s
  | cons p ps ih =>
    have hrest : s.SameCore (probe ps (s.setRsp none)).1 := (s.sameCore_setRsp none).trans (ih _)
    by_cases h : p ∈ validPolynomials
    · rwa [probe_cons_of_valid h]
    · rwa [probe_cons_of_not_valid h]

/-! ## All 256 candidates -/

theorem filter_valid_allBytes : allBytes.filter (· ∈ validPolynomials) = validPolynomials := by decide +kernel

theorem allPossiblePolynomials_snd (s : State) : (allPossiblePolynomials s).2 = validPolynomials :=
  (probe_snd allBytes s).trans filter_valid_allBytes

/-- Settles O27: the probe of any candidates keeps the valid ones in order, and of all bytes, ascending, those are the
listed sixteen; each POLYCHK leaves the tables and `INIT_STATE` alone, so the whole run does. -/
theorem diagnosticsReturnTheSixteen : Obligations.DiagnosticsReturnTheSixteen := by
  obtain ⟨-, -, hlength, hnodup, hpoly⟩ := exactlySixteenPolynomialsAreValid
  intro s _
  rw [allPossiblePolynomials_snd]
  exact ⟨rfl, hlength, hnodup, hpoly, sameCore_probe allBytes s⟩

end Sys2Proof.Machine

/-! # O35, O36, O37: the order of the error tests, `FAILED`, and what an error leaves (60_exceptions.md) -/

namespace Sys2Proof.Machine

/-! ## The response a command or a word is given -/

theorem exists_exec_of_reply {i : Instr} {s : State} {r : Response} (h : reply i s = some r) :
    ∃ t, exec i s = .next t ∧ t.rsp = some r := by
  simp only [reply] at h
  cases hexec : exec i s with
  | next t => exact ⟨t, rfl, by rwa [hexec] at h⟩
  | fault f => simp [hexec] at h
  | refused f => simp [hexec] at h

/-- The step that accepts a word presents the response the word is given. -/
theorem exists_step_of_replyToWord {s : State} {w : Word} {rest : List Word} {r : Response}
    (hs : s.initState ≠ .unbuilt) (hrsp : s.rsp = none) (hreq : s.requests = w :: rest)
    (h : replyToWord w s = some r) : ∃ t, step s = .next t ∧ t.rsp = some r := by
  have hcore : s.SameCore (s.setRequests rest) := ⟨rfl, rfl, rfl, rfl⟩
  rw [step_accept hs hrsp hreq]
  rw [replyToWord] at h
  cases hd : decode w with
  | ok i =>
    rw [hd] at h
    exact exists_exec_of_reply ((reply_sameCore hcore i).trans h)
  | error e =>
    rw [hd] at h
    exact ⟨_, rfl, h⟩

/-! ## The status of every command (R165) -/

/-- The status a command is answered with on built tables: the causes R165 tests after the one for `FAILED`. -/
def statusWhenBuilt : Instr → BitVec 4
  | .div _ b => if b = 0#8 then 0x1#4 else 0x0#4
  | .exprd k => if 510 ≤ k then 0x1#4 else 0x0#4
  | .polychk p => if p ∈ validPolynomials then 0x0#4 else 0x2#4
  | _ => 0x0#4

/-- The status a command is answered with: in `FAILED` the six that read a table are refused first (R165 point 2). -/
def statusIn (st : InitState) (i : Instr) : BitVec 4 :=
  if st = .failed ∧ i.readsTables = true then 0x2#4 else statusWhenBuilt i

theorem status_generatorResponse (p : Byte) : (generatorResponse p).status = statusWhenBuilt (.polychk p) := by
  rw [generatorResponse_eq, statusWhenBuilt]
  split <;> rfl

theorem reply_polychk (p : Byte) (s : State) : reply (.polychk p) s = some (generatorResponse p) :=
  reply_eq_some_of_exec (exec_polychk p s)

theorem reply_init (s : State) : reply .init s = some (.ok 0x00#8) := reply_eq_some_of_exec (exec_init_eq s)

/-- The commands that read no table are answered with the same status in every state. -/
theorem exists_reply_of_not_readsTables {i : Instr} (h : i.readsTables = false) (s : State) :
    ∃ r, reply i s = some r ∧ r.status = statusWhenBuilt i := by
  cases i with
  | add a b => exact ⟨_, reply_eq_some_of_exec (exec_add a b s), rfl⟩
  | sub a b => exact ⟨_, reply_eq_some_of_exec (exec_sub a b s), rfl⟩
  | init => exact ⟨_, reply_init s, rfl⟩
  | polychk p => exact ⟨_, reply_polychk p s, status_generatorResponse p⟩
  | _ => simp [Instr.readsTables] at h

theorem State.Built.exists_reply {s : State} (h : s.Built) (i : Instr) :
    ∃ r, reply i s = some r ∧ r.status = statusWhenBuilt i := by
  cases i with
  | add a b => exact exists_reply_of_not_readsTables rfl s
  | sub a b => exact exists_reply_of_not_readsTables rfl s
  | init => exact exists_reply_of_not_readsTables rfl s
  | polychk p => exact exists_reply_of_not_readsTables rfl s
  | mul a b => exact ⟨_, reply_eq_some_of_exec (h.exec_mul a b), rfl⟩
  | exp a n => exact ⟨_, reply_eq_some_of_exec (h.exec_exp a n), rfl⟩
  | mulrd a b => exact ⟨_, reply_eq_some_of_exec (h.exec_mulrd a b), rfl⟩
  | logrd a =>
    obtain ⟨v, hv⟩ := h.exists_holds (space := .log) a.isLt
    exact ⟨_, reply_eq_some_of_exec (exec_logrd h.1 hv), rfl⟩
  | div a b =>
    by_cases hb : b = 0#8
    · subst hb
      exact ⟨_, reply_eq_some_of_exec (exec_div_of_divide h.1 divide_by_zero), rfl⟩
    · exact ⟨_, reply_eq_some_of_exec (h.exec_div a hb), (if_neg hb).symm⟩
  | exprd k =>
    by_cases hk : 510 ≤ k
    · exact ⟨_, reply_eq_some_of_exec (exec_exprd_of_le h.1 hk), (if_pos hk).symm⟩
    · exact ⟨_, reply_eq_some_of_exec (h.exec_exprd (Nat.lt_of_not_le hk)), (if_neg hk).symm⟩

theorem exists_reply_of_accepting {s : State} (h : s.Built ∨ s.initState = .failed) (i : Instr) :
    ∃ r, reply i s = some r ∧ r.status = statusIn s.initState i := by
  rcases h with hbuilt | hfailed
  · have hready : ¬ (s.initState = .failed ∧ i.readsTables = true) := by simp [hbuilt.1]
    rw [statusIn, if_neg hready]
    exact hbuilt.exists_reply i
  · cases htab : i.readsTables with
    | true => exact ⟨_, reply_eq_some_of_exec (exec_failed htab hfailed), (if_pos ⟨hfailed, htab⟩).symm⟩
    | false =>
      rw [statusIn, if_neg (by simp [htab])]
      exact exists_reply_of_not_readsTables htab s

/-- Settles O35: an illegal word is answered before its operands are looked at; a command's status is read off from
`INIT_STATE` and its operands. -/
theorem statusFollowsThePriority : Obligations.StatusFollowsThePriority := by
  intro s w rest h hrsp hreq
  have hacc : s.initState ≠ .unbuilt := by
    rcases h with hbuilt | hfailed
    · simp [hbuilt.1]
    · simp [hfailed]
  cases hd : decode w with
  | error e =>
    have hillegal := illegal_iff_not_decodes.2 (by simp [hd] : ¬ ∃ c, decode w = .ok c)
    have hreply : replyToWord w s = some (.error .illegalCommand) := by rw [replyToWord, hd]
    obtain ⟨t, hstep, ht⟩ := exists_step_of_replyToWord hacc hrsp hreq hreply
    exact ⟨t, _, hstep, ht, .inl ⟨hillegal, rfl⟩⟩
  | ok i =>
    have hlegal := mt illegal_iff_not_decodes.1 (not_not_intro ⟨i, hd⟩)
    have hword : replyToWord w s = reply i s := by rw [replyToWord, hd]
    obtain ⟨r, hr, hstatus⟩ := exists_reply_of_accepting h i
    obtain ⟨t, hstep, ht⟩ := exists_step_of_replyToWord hacc hrsp hreq (hword.trans hr)
    refine ⟨t, r, hstep, ht, .inr ⟨hlegal, i, rfl, ?_⟩⟩
    rw [hstatus]
    cases s.initState <;> cases i <;> rfl

/-! ## `FAILED` (R168) -/

/-- INIT runs the sequence in every state and answers what the generator reports (R87). -/
theorem exec_init (s : State) :
    exec .init s = .next ((initSequence Config.poly s).setRsp (some (generatorResponse Config.poly))) := rfl

/-- Settles O36: the test for `FAILED` stands before every other test of a command that reads a table, and no other
command looks at `INIT_STATE`. -/
theorem failedStateAnswersInvalidPolynomial : Obligations.FailedStateAnswersInvalidPolynomial := by
  refine ⟨fun p s k h => initSequence_error h s, fun s a b n hs => ?_⟩
  exact ⟨exec_failed rfl hs, exec_failed rfl hs, exec_failed rfl hs, exec_failed rfl hs, exec_failed rfl hs,
    exec_failed rfl hs, exec_add a b s, exec_sub a b s, by rw [reply_polychk, reply_polychk], exec_init s⟩

/-! ## What an error leaves (R167) -/

/-- Bits 7:0 of a response word are the data pins (30_encoding.md R65). -/
theorem Response.extractLsb'_toWord (r : Response) : r.toWord.extractLsb' 0 8 = r.dataPins :=
  BitVec.extractLsb'_append_eq_right

/-- Settles O37: a command other than INIT changes the response presented alone, and no command reads that. -/
theorem errorsAreNotSticky : Obligations.ErrorsAreNotSticky := by
  intro i s t k hi hexec ht
  obtain ⟨r, rfl⟩ := exec_eq_next hi hexec
  obtain rfl : r = .error k := Option.some.inj ht
  exact ⟨rfl, congrArg some (Response.extractLsb'_toWord _), fun j => exec_setRsp j s _⟩

end Sys2Proof.Machine

/-! # O2, O3, O4: the opcode map and the response word (30_encoding.md) -/

namespace Sys2Proof

/-! ## The opcode map as match and mask (30_encoding.md section 3) -/

theorem pack_ofNat_eq (k : Nat) : pack (BitVec.ofNat 4 k) 0#8 0#8 0#32 = BitVec.ofNat 64 (k * 2 ^ 60) := by
  apply BitVec.eq_of_toNat_eq
  rw [pack_toNat]
  simp only [BitVec.toNat_ofNat]
  omega

/-- Under the mask of the opcode map only `OP` and `RSV` are left of a word. -/
theorem and_opcodeMask_eq_pack_iff {w : Word} {op : BitVec 4} :
    w &&& 0xFFFF000000000000#64 = pack op 0#8 0#8 0#32 ↔ opField w = op ∧ rsvField w = 0#12 := by
  have hop (x : BitVec 4) : x &&& 15#4 = x := BitVec.and_allOnes
  have hrsv (x : BitVec 12) : x &&& 4095#12 = x := BitVec.and_allOnes
  simp [and_eq_pack_iff, opField, rsvField, aField, bField, nBits, hop, hrsv]

theorem and_opcodeMask_eq_iff {w : Word} {k : Nat} (h : k < 10) :
    w &&& 0xFFFF000000000000#64 = BitVec.ofNat 64 (k * 2 ^ 60) ↔ (opField w).toNat = k ∧ rsvField w = 0#12 := by
  rw [← pack_ofNat_eq, and_opcodeMask_eq_pack_iff, ← BitVec.toNat_inj, BitVec.toNat_ofNat, Nat.mod_eq_of_lt (by omega)]

/-- Settles O2: the mask leaves `OP` and `RSV`, and a word decodes exactly when the one is below 10 and the other 0. -/
theorem opcodeMapHasExactlyTenMatches : Obligations.OpcodeMapHasExactlyTenMatches := by
  intro w
  rw [exists_decode_eq_ok_iff]
  constructor
  · rintro ⟨hop, hrsv⟩
    exact ⟨_, hop, (and_opcodeMask_eq_iff hop).2 ⟨rfl, hrsv⟩⟩
  · rintro ⟨k, hk, hmask⟩
    obtain ⟨rfl, hrsv⟩ := (and_opcodeMask_eq_iff hk).1 hmask
    exact ⟨hk, hrsv⟩

/-- Settles O3, by evaluation of the decoder on the listed words. -/
theorem listedWordsDecode : Obligations.ListedWordsDecode := by
  unfold Obligations.ListedWordsDecode
  decide

end Sys2Proof

namespace Sys2Proof.Machine

/-! ## The response word (30_encoding.md R65, R66) -/

/-- Bits 11:8 of a response word are the status. -/
theorem Response.extractLsb'_toWord_status (r : Response) : r.toWord.extractLsb' 8 4 = r.status :=
  BitVec.extractLsb'_append_eq_left

theorem ErrorKind.code_ne_zero (k : ErrorKind) : k.code ≠ 0x0#4 := by cases k <;> decide

theorem ErrorKind.code_injective : Function.Injective ErrorKind.code := by
  intro k k'
  cases k <;> cases k' <;> decide

/-- The status tells a value from an error and the errors apart; the data tells the values apart. -/
theorem Response.eq_of_status_of_dataPins {r r' : Response} (hstatus : r.status = r'.status)
    (hdata : r.dataPins = r'.dataPins) : r = r' := by
  cases r with
  | ok d =>
    cases r' with
    | ok d' => exact congrArg Response.ok hdata
    | error k' => exact absurd hstatus.symm k'.code_ne_zero
  | error k =>
    cases r' with
    | ok d' => exact absurd hstatus k.code_ne_zero
    | error k' => exact congrArg Response.error (ErrorKind.code_injective hstatus)

theorem Response.toWord_injective : Function.Injective Response.toWord := by
  intro r r' h
  apply Response.eq_of_status_of_dataPins
  · rw [← r.extractLsb'_toWord_status, h, r'.extractLsb'_toWord_status]
  · rw [← r.extractLsb'_toWord, h, r'.extractLsb'_toWord]

/-- Settles O4: both fields can be read back from the word, and they determine the response. -/
theorem responseWordCarriesStatusAndData : Obligations.ResponseWordCarriesStatusAndData :=
  ⟨fun r => ⟨r.extractLsb'_toWord_status, r.extractLsb'_toWord⟩, fun _ => ⟨rfl, rfl⟩, rfl, rfl, rfl,
    fun _ _ h => Response.toWord_injective h⟩

end Sys2Proof.Machine

/-! # What a command and a step can do, and what depends on the tables alone -/

namespace Sys2Proof.Machine

/-! ## What depends on `INIT_STATE` and the tables alone (10_state.md R20) -/

/-- There is one content of built tables (70_reset_and_hazards.md section 1). -/
theorem State.Built.sameCore {s t : State} (hs : s.Built) (ht : t.Built) : s.SameCore t := by
  obtain ⟨sready, slog, sexp, smul⟩ := s.built_iff.1 hs
  obtain ⟨tready, tlog, texp, tmul⟩ := t.built_iff.1 ht
  have hlog := tlog.trans slog.symm
  have hexp := texp.trans sexp.symm
  exact ⟨tready.trans sready.symm, hlog, hexp,
    tmul.trans ((generateMultiplicationTable_congr hlog hexp).trans smul.symm)⟩

theorem State.TablesCanonical.of_sameCore {s t : State} (h : s.TablesCanonical) (hc : s.SameCore t) :
    t.TablesCanonical := by
  intro space
  rw [hc.table space]
  exact h space

theorem State.Inv.of_sameCore {s t : State} (h : s.Inv) (hc : s.SameCore t) : t.Inv := by
  obtain ⟨hcan, hinit⟩ := h
  exact ⟨hcan.of_sameCore hc, hinit.imp hc.1.trans fun hb => hb.of_sameCore hc⟩

theorem loadShipped_tablesCanonical (s : State) : (loadShipped s).TablesCanonical
  | .log => generateLogTable_canonical generateLogTable_poly
  | .exp => by
    rw [State.table_exp, loadShipped_expTab, ← generateExpTable_shipped]
    exact generateExpTable_canonical shippedLog
  | .mulTab => by
    rw [State.table_mulTab, loadShipped_mulTab]
    exact generateMultiplicationTable_canonical _

theorem State.Built.tablesCanonical {s : State} (h : s.Built) : s.TablesCanonical :=
  (loadShipped_tablesCanonical s).of_sameCore ((loadShipped_built s).sameCore h)

theorem State.Built.inv {s : State} (h : s.Built) : s.Inv := ⟨h.tablesCanonical, .inr h⟩

/-! ## What a command can do (60_exceptions.md R166, 40_table_generator.md R87) -/

/-- A command that completes presents a response; if it is INIT, it puts the built tables in place first. -/
theorem exec_eq_next_cases {i : Instr} {s t : State} (h : exec i s = .next t) :
    ∃ r, i ≠ .init ∧ t = s.setRsp (some r) ∨ i = .init ∧ t = (loadShipped s).setRsp (some r) := by
  by_cases hi : i = .init
  · subst hi
    rw [exec_init_eq] at h
    exact ⟨_, .inr ⟨rfl, (Host.Outcome.next.inj h).symm⟩⟩
  · exact (exec_eq_next hi h).imp fun _ ht => .inl ⟨hi, ht⟩

theorem exec_sameRequesters {i : Instr} {s t : State} (h : exec i s = .next t) :
    s.SameRequesters t ∧ t.rsp.isSome = true := by
  obtain ⟨r, ⟨-, rfl⟩ | ⟨-, rfl⟩⟩ := exec_eq_next_cases h
  · exact ⟨⟨rfl, rfl, rfl⟩, rfl⟩
  · exact ⟨⟨rfl, rfl, rfl⟩, rfl⟩

theorem exec_sameCore_or_built {i : Instr} {s t : State} (h : exec i s = .next t) : s.SameCore t ∨ t.Built := by
  obtain ⟨r, ⟨-, rfl⟩ | ⟨-, rfl⟩⟩ := exec_eq_next_cases h
  · exact .inl (s.sameCore_setRsp _)
  · exact .inr ((loadShipped_built s).of_sameCore (State.sameCore_setRsp _ _))

theorem reply_of_exec {i : Instr} {s t : State} (h : exec i s = .next t) : reply i s = t.rsp := by
  rw [reply, h]

/-! ## What a step can do (30_encoding.md R69, 70_reset_and_hazards.md R180) -/

theorem State.sameCore_setRequests (s : State) (ws : List Word) : s.SameCore (s.setRequests ws) := ⟨rfl, rfl, rfl, rfl⟩

theorem sameCore_deliver (r : Response) (s : State) : s.SameCore (deliver r s) := ⟨rfl, rfl, rfl, rfl⟩

/-- In `UNBUILT` the step is the INIT sequence, whatever is presented. -/
theorem step_of_unbuilt {s : State} (h : s.initState = .unbuilt) : step s = .next (loadShipped s) := by
  have hp : portEvent s = .initialise := by rw [portEvent, h]
  rw [step, hp, initSequence_poly]

section
variable {s : State} (hs : s.initState ≠ .unbuilt)
include hs

theorem portEvent_of_rsp {r : Response} (hr : s.rsp = some r) :
    portEvent s = if s.rspReady then .deliver r else .wait := by
  rw [portEvent, hr]
  cases hi : s.initState with
  | unbuilt => exact absurd hi hs
  | ready => rfl
  | failed => rfl

theorem step_deliver {r : Response} (hr : s.rsp = some r) (hready : s.rspReady = true) :
    step s = .next (deliver r s) := by
  rw [step, portEvent_of_rsp hs hr, if_pos hready]

theorem step_wait {r : Response} (hr : s.rsp = some r) (hready : s.rspReady = false) : step s = .next s := by
  rw [step, portEvent_of_rsp hs hr, if_neg (by simp [hready])]

theorem step_idle (hr : s.rsp = none) (hreq : s.requests = []) : step s = .next s := by
  have hp : portEvent s = .idle := by
    rw [portEvent, hr, hreq]
    cases hi : s.initState with
    | unbuilt => exact absurd hi hs
    | ready => rfl
    | failed => rfl
  rw [step, hp]

variable {t : State} {w : Word} {rest : List Word} (hr : s.rsp = none) (hw : s.requests = w :: rest)
include hr hw

/-- An accepted word that decodes is executed, and an illegal one is answered so; the word is taken either way. -/
theorem step_accept_cases (h : step s = .next t) :
    (∃ i, decode w = .ok i ∧ exec i (s.setRequests rest) = .next t) ∨
    (∃ e, decode w = .error e ∧ t = (s.setRequests rest).setRsp (some (.error .illegalCommand))) := by
  rw [step_accept hs hr hw] at h
  cases hd : decode w with
  | ok i =>
    rw [hd] at h
    exact .inl ⟨i, rfl, h⟩
  | error e =>
    rw [hd] at h
    exact .inr ⟨e, rfl, (Host.Outcome.next.inj h).symm⟩

theorem step_accept_sameRequesters (h : step s = .next t) :
    (s.setRequests rest).SameRequesters t ∧ t.rsp.isSome = true := by
  rcases step_accept_cases hs hr hw h with ⟨i, -, hexec⟩ | ⟨e, -, rfl⟩
  · exact exec_sameRequesters hexec
  · exact ⟨State.sameRequesters_setRsp _ _, rfl⟩

theorem step_accept_rsp (h : step s = .next t) : t.rsp = replyToWord w s := by
  rw [← replyToWord_sameCore (s.sameCore_setRequests rest), replyToWord]
  rcases step_accept_cases hs hr hw h with ⟨i, hd, hexec⟩ | ⟨e, hd, rfl⟩
  · rw [hd, ← reply_of_exec hexec]
  · rw [hd, State.setRsp_rsp]

theorem step_accept_sameCore_or_built (h : step s = .next t) : s.SameCore t ∨ t.Built := by
  rcases step_accept_cases hs hr hw h with ⟨i, -, hexec⟩ | ⟨e, -, rfl⟩
  · exact (exec_sameCore_or_built hexec).imp_left (s.sameCore_setRequests rest).trans
  · exact .inl ⟨rfl, rfl, rfl, rfl⟩

end

/-- On built tables every word is given a response, and accepting it changes nothing but the port. -/
theorem State.Built.step_accept {s : State} (h : s.Built) {w : Word} {rest : List Word} (hr : s.rsp = none)
    (hw : s.requests = w :: rest) :
    ∃ r, replyToWord w s = some r ∧ step s = .next ((s.setRequests rest).setRsp (some r)) := by
  have hs : s.initState ≠ .unbuilt := by simp [h.1]
  have hcore := s.sameCore_setRequests rest
  rw [Machine.step_accept hs hr hw, ← replyToWord_sameCore hcore, replyToWord]
  cases decode w with
  | error e => exact ⟨_, rfl, rfl⟩
  | ok i =>
    obtain ⟨r, -, hexec⟩ := (h.of_sameCore hcore).exec_eq i
    exact ⟨r, reply_eq_some_of_exec hexec, hexec⟩

/-- A step builds the tables, delivers the response presented, changes nothing, or accepts the first word. -/
theorem step_eq_next_cases {s t : State} (h : step s = .next t) :
    (s.initState = .unbuilt ∧ t = loadShipped s) ∨
    (∃ r, s.rsp = some r ∧ t = deliver r s) ∨
    t = s ∨
    (s.initState ≠ .unbuilt ∧ s.rsp = none ∧ ∃ w rest, s.requests = w :: rest) := by
  rcases portEvent_cases s with ⟨hs, -⟩ | ⟨-, r, hr, -, hp⟩ | ⟨-, -, -, hp⟩ | ⟨-, -, -, hp⟩ | ⟨hs, hr, w, rest, hw, -⟩
  · rw [step_of_unbuilt hs] at h
    exact .inl ⟨hs, (Host.Outcome.next.inj h).symm⟩
  · rw [step, hp] at h
    exact .inr (.inl ⟨r, hr, (Host.Outcome.next.inj h).symm⟩)
  · rw [step, hp] at h
    exact .inr (.inr (.inl (Host.Outcome.next.inj h).symm))
  · rw [step, hp] at h
    exact .inr (.inr (.inl (Host.Outcome.next.inj h).symm))
  · exact .inr (.inr (.inr ⟨hs, hr, w, rest, hw⟩))

/-- A step that gives a next state keeps `INIT_STATE` and the tables, or leaves the tables built. -/
theorem step_sameCore_or_built {s t : State} (h : step s = .next t) : s.SameCore t ∨ t.Built := by
  rcases step_eq_next_cases h with ⟨-, rfl⟩ | ⟨r, -, rfl⟩ | rfl | ⟨hs, hr, w, rest, hw⟩
  · exact .inr (loadShipped_built s)
  · exact .inl (sameCore_deliver r s)
  · exact .inl (.refl t)
  · exact step_accept_sameCore_or_built hs hr hw h

end Sys2Proof.Machine

/-! # O43 to O46: the invariant, and that no run stops (10_state.md section 9, 60_exceptions.md section 5) -/

namespace Sys2Proof.Machine

/-- Settles O44: the invariant speaks of `INIT_STATE` and the tables alone, and built tables meet it. -/
theorem stepKeepsTheInvariant : Obligations.StepKeepsTheInvariant := by
  intro s t hinv h
  rcases step_sameCore_or_built h with hcore | hbuilt
  · exact hinv.of_sameCore hcore
  · exact hbuilt.inv

/-- Settles O46: a step keeps the tables or leaves the built ones, which are canonical. -/
theorem stepKeepsTablesCanonical : Obligations.StepKeepsTablesCanonical := by
  intro s t hcan h
  rcases step_sameCore_or_built h with hcore | hbuilt
  · exact hcan.of_sameCore hcore
  · exact hbuilt.tablesCanonical

/-- After a reset no entry of any table is listed. -/
theorem resetEvent_inv (s : State) : (resetEvent s).Inv := by
  refine ⟨fun space => ?_, .inl (resetEvent_initState s)⟩
  rw [resetEvent_table]
  exact ⟨.nil, nofun⟩

/-- Settles O43: an empty memory is canonical. -/
theorem invariantHoldsAtReset : Obligations.InvariantHoldsAtReset :=
  ⟨resetEvent_inv State.reset, resetEvent_inv⟩

/-- Settles O45: in `UNBUILT` the INIT sequence cannot stop, and on built tables no command can. -/
theorem noStepStops : Obligations.NoStepStops := by
  rintro s ⟨-, hunbuilt | hbuilt⟩
  · exact ⟨_, step_of_unbuilt hunbuilt⟩
  have hs : s.initState ≠ .unbuilt := by simp [hbuilt.1]
  cases hr : s.rsp with
  | some r =>
    cases hready : s.rspReady with
    | true => exact ⟨_, step_deliver hs hr hready⟩
    | false => exact ⟨_, step_wait hs hr hready⟩
  | none =>
    cases hw : s.requests with
    | nil => exact ⟨_, step_idle hs hr hw⟩
    | cons w rest =>
      obtain ⟨r, -, hstep⟩ := hbuilt.step_accept hr hw
      exact ⟨_, hstep⟩

end Sys2Proof.Machine

/-! # O5, O7 to O11: the port and reset (30_encoding.md section 7, 70_reset_and_hazards.md) -/

namespace Sys2Proof.Machine

/-! ## The port (30_encoding.md section 7) -/

/-- Settles O5: the step that accepts a word, at a word that decodes. -/
theorem stepRunsTheDecodedCommand : Obligations.StepRunsTheDecodedCommand := by
  intro s w rest i hs hr hw hd
  exact ⟨(decode_eq_ok_iff_and_usedBits.1 hd).1, by rw [step_accept hs hr hw, hd]⟩

/-- Settles O8: the port looks at the response before it looks at the requests. -/
theorem presentedResponseIsDeliveredFirst : Obligations.PresentedResponseIsDeliveredFirst :=
  fun _ hs => ⟨fun _ => step_deliver hs, fun _ => step_wait hs, step_idle hs⟩

theorem State.reqReady_iff {s : State} : s.reqReady = true ↔ s.initState ≠ .unbuilt ∧ s.rsp = none := by
  simp [State.reqReady, State.rspValid]

theorem State.reqReady_eq_false_of_rsp {s : State} (h : s.rsp.isSome = true) : s.reqReady = false := by
  simp [State.reqReady, State.rspValid, h]

/-- Settles O7: of the things a step can do, only the acceptance of a word takes one. -/
theorem stepAcceptsOnlyWhenReady : Obligations.StepAcceptsOnlyWhenReady := by
  intro s t h
  rcases step_eq_next_cases h with ⟨-, rfl⟩ | ⟨r, -, rfl⟩ | rfl | ⟨hs, hr, w, rest, hw⟩
  · exact .inl rfl
  · exact .inl rfl
  · exact .inl rfl
  · obtain ⟨⟨hreq, -, hdel⟩, hsome⟩ := step_accept_sameRequesters hs hr hw h
    have hrest : t.requests = rest := hreq
    exact .inr ⟨by simp [State.reqValid, hw], State.reqReady_iff.2 ⟨hs, hr⟩, w, by rw [hrest, hw],
      by simp [State.reqCmd, hw], step_accept_rsp hs hr hw h, hsome, hdel, State.reqReady_eq_false_of_rsp hsome⟩

/-! ## Reset and power-on contents (70_reset_and_hazards.md section 1) -/

theorem resetEvent_not_holds (s : State) (space : Space) (k : Nat) (v : Byte) : ¬ (resetEvent s).Holds space k v := by
  intro h
  have hread := (memRead_eq_next.1 h).2
  rw [resetEvent_table, Memory.read_nil] at hread
  exact nomatch hread

/-- Settles O9: in `UNBUILT` the port starts the INIT sequence, which touches nothing outside the core. -/
theorem resetRunsInitBeforeAnyCommand : Obligations.ResetRunsInitBeforeAnyCommand := by
  refine ⟨rfl, fun s => ⟨resetEvent_initState s, resetEvent_rsp s, resetEvent_not_holds s⟩, fun s hs => ⟨?_, ?_⟩⟩
  · simp [State.reqReady, hs]
  · exact ⟨_, step_of_unbuilt hs, loadShipped_built s, rfl, ⟨rfl, rfl, rfl⟩,
      fun hr => State.reqReady_iff.2 ⟨by simp, hr⟩⟩

/-- Settles O10: the INIT sequence leaves the one built content, and responses are read off from that. -/
theorem replyDoesNotDependOnPowerOnContents : Obligations.ReplyDoesNotDependOnPowerOnContents := by
  refine ⟨fun s s' w => ?_, fun s w h => ?_⟩
  · rw [initSequence_poly, initSequence_poly]
    exact replyToWord_sameCore ((loadShipped_built s').sameCore (loadShipped_built s)) w
  · rw [initSequence_poly, h.loadShipped_eq]

/-! ## A run over all requests (30_encoding.md section 7, 70_reset_and_hazards.md R190) -/

theorem run_succ {M : Host.Core} {s t : M.State} (h : M.step s = .next t) (k : Nat) : M.run (k + 1) s = M.run k t := by
  rw [Host.Core.run, h]

/-- On built tables a word is answered and its response taken in two steps. -/
theorem State.Built.run_two {s : State} (h : s.Built) {w : Word} {rest : List Word} (hr : s.rsp = none)
    (hready : s.rspReady = true) (hw : s.requests = w :: rest) :
    ∃ r, replyToWord w s = some r ∧
      ∀ k, core.run (k + 2) s = core.run k (deliver r ((s.setRequests rest).setRsp (some r))) := by
  obtain ⟨r, hreply, hstep⟩ := h.step_accept hr hw
  have hdeliver : step ((s.setRequests rest).setRsp (some r)) =
      .next (deliver r ((s.setRequests rest).setRsp (some r))) := step_deliver (by simp [h.1]) rfl hready
  exact ⟨r, hreply, fun k => (run_succ (M := core) hstep (k + 1)).trans (run_succ (M := core) hdeliver k)⟩

/-- Settles O11, by induction on the requests: two steps answer the first of them and leave the tables the others are
answered from. -/
theorem requestsAreAnsweredInOrder : Obligations.RequestsAreAnsweredInOrder := by
  intro s
  induction hn : s.requests generalizing s with
  | nil => exact fun _ hr _ => ⟨s, [], rfl, hn, hr, .refl s, by simp, rfl⟩
  | cons w rest ih =>
    intro h hr hready
    obtain ⟨r, hreply, hrun⟩ := h.run_two hr hready hn
    have hcore : s.SameCore (deliver r ((s.setRequests rest).setRsp (some r))) := ⟨rfl, rfl, rfl, rfl⟩
    obtain ⟨t, rs, hrest, hreq, hrsp, hcore', hdel, hrs⟩ := ih _ rfl (h.of_sameCore hcore) rfl hready
    refine ⟨t, r :: rs, (hrun _).trans hrest, hreq, hrsp, hcore.trans hcore', ?_, ?_⟩
    · rw [hdel]
      exact List.append_assoc s.delivered [r] rs
    · simp only [List.map_cons, hrs, hreply, replyToWord_sameCore hcore]

end Sys2Proof.Machine

/-! # O38, O39, O41, O42: frames, the tables a command reads, and stops -/

namespace Sys2Proof.Machine

/-! ## Frames (10_state.md section 7, 20_memory.md section 7) -/

/-- Settles O39: a command other than INIT keeps the tables, and INIT leaves the one built content. -/
theorem commandFrame : Obligations.CommandFrame := by
  intro i s t h
  obtain ⟨hreq, hrsp⟩ := exec_sameRequesters h
  obtain ⟨r, ⟨hi, rfl⟩ | ⟨hi, rfl⟩⟩ := exec_eq_next_cases h
  · exact ⟨hreq, hrsp, fun _ => ⟨rfl, fun space k => memRead_setRsp space k s _⟩, fun hinit => absurd hinit hi⟩
  · refine ⟨hreq, hrsp, fun hne => absurd hi hne, fun _ => ⟨rfl, fun space k => ?_⟩⟩
    rw [memRead_setRsp, initSequence_poly]
    exact memRead_sameCore ((loadShipped_built State.reset).sameCore (loadShipped_built s)) space k

/-- Settles O42: on built tables each command changes the response presented alone, which no command reads. -/
theorem commandsCommute : Obligations.CommandsCommute := by
  intro i j s h
  obtain ⟨r, -, hi⟩ := h.exec_eq i
  obtain ⟨q, -, hj⟩ := h.exec_eq j
  exact ⟨_, _, _, _, hi, (exec_setRsp j s _).trans hj, hj, (exec_setRsp i s _).trans hi, rfl, rfl,
    ⟨rfl, rfl, rfl, rfl⟩⟩

/-! ## The tables each command reads (42_field_ops.md section 1) -/

theorem expLookup_congr {s t : State} (he : s.expTab = t.expTab) (k : Nat) : expLookup k s = expLookup k t :=
  memRead_congr he

theorem logLookup_congr {s t : State} (hl : s.logTab = t.logTab) (a : Byte) : logLookup a s = logLookup a t := by
  have hread : memRead .log a.toNat s = memRead .log a.toNat t := memRead_congr hl
  rw [logLookup, logLookup, hread]

section
variable {s t : State} (hl : s.logTab = t.logTab) (he : s.expTab = t.expTab)
include hl he

theorem divide_congr (a b : Byte) : divide a b s = divide a b t := by
  simp only [divide, logarithm, logLookup_congr hl, expLookup_congr he]

theorem power_congr (a : Byte) (n : Nat) : power a n s = power a n t := by
  simp only [power, logarithm, logLookup_congr hl, expLookup_congr he]

end

section
variable {s t : State} (hinit : s.initState = t.initState)
include hinit

theorem reply_logrd_congr (hl : s.logTab = t.logTab) (a : Byte) : reply (.logrd a) s = reply (.logrd a) t :=
  reply_congr_of_readsTables rfl hinit (by simp only [resultOf, logLookup_congr hl])

theorem reply_exprd_congr (he : s.expTab = t.expTab) (k : Nat) : reply (.exprd k) s = reply (.exprd k) t :=
  reply_congr_of_readsTables rfl hinit (by simp only [resultOf, expLookup_congr he])

variable (hl : s.logTab = t.logTab) (he : s.expTab = t.expTab)
include hl he

theorem reply_mul_congr (a b : Byte) : reply (.mul a b) s = reply (.mul a b) t :=
  reply_congr_of_readsTables rfl hinit (by simp only [resultOf, multiply_congr hl he])

theorem reply_div_congr (a b : Byte) : reply (.div a b) s = reply (.div a b) t :=
  reply_congr_of_readsTables rfl hinit (divide_congr hl he a b)

theorem reply_exp_congr (a : Byte) (n : Nat) : reply (.exp a n) s = reply (.exp a n) t :=
  reply_congr_of_readsTables rfl hinit (by simp only [resultOf, power_congr hl he])

end

/-- A command that reads no table is given the same response in every state. -/
theorem reply_eq_of_not_readsTables {i : Instr} (h : i.readsTables = false) (s t : State) : reply i s = reply i t := by
  cases i with
  | add a b => rw [reply_eq_some_of_exec (exec_add a b s), reply_eq_some_of_exec (exec_add a b t)]
  | sub a b => rw [reply_eq_some_of_exec (exec_sub a b s), reply_eq_some_of_exec (exec_sub a b t)]
  | init => rw [reply_init, reply_init]
  | polychk p => rw [reply_polychk, reply_polychk]
  | _ => simp [Instr.readsTables] at h

/-- Settles O41: the responses are the same where `INIT_STATE` and the tables the command reads are. -/
theorem replyDependsOnlyOnTheTables : Obligations.ReplyDependsOnlyOnTheTables := by
  refine ⟨fun w s s' h => replyToWord_sameCore h w, fun s l e m a b n => ⟨?_, ?_, ?_, ?_, ?_, ?_, ?_, ?_⟩⟩
  · exact reply_mul_congr (by simp) (by simp) (by simp) a b
  · exact reply_div_congr (by simp) (by simp) (by simp) a b
  · exact reply_exp_congr (by simp) (by simp) (by simp) a n
  · exact reply_logrd_congr (by simp) (by simp) a
  · exact reply_exprd_congr (by simp) (by simp) n
  all_goals exact reply_eq_of_not_readsTables rfl _ _

/-! ## How a command can stop (93_implementation_defined.md U1, U9) -/

theorem LogEntry.eq_of_ofByte_eq_undef {v : Byte} (h : LogEntry.ofByte v = .undef) : v = 0xFF#8 := by
  rw [← LogEntry.toByte_ofByte v, h]
  rfl

/-- If the computation stops, it met an entry that nothing has written, or `UNDEF` at a nonzero element. -/
def StopsOnUnbuilt {α : Type} (s : State) : Access α → Prop
  | .next _ => True
  | .fault f => ∃ space k, f = .unwrittenEntry space k ∧ k < space.size ∧ (s.table space).read k = none
  | .refused r => ∃ a : Byte, a ≠ 0#8 ∧ r = .undefinedLogarithm a ∧ s.Holds .log a.toNat 0xFF#8

section
variable {α β : Type} {s : State}

theorem StopsOnUnbuilt.andThen {x : Access α} {f : α → Access β} (hx : StopsOnUnbuilt s x)
    (hf : ∀ a, x = .next a → StopsOnUnbuilt s (f a)) : StopsOnUnbuilt s (andThen x f) := by
  cases x with
  | next a => exact hf a rfl
  | fault r => exact hx
  | refused r => exact hx

theorem stopsOnUnbuilt_memRead {space : Space} {i : Nat} (h : i < space.size) :
    StopsOnUnbuilt s (memRead space i s) := by
  rcases memRead_cases space i s with ⟨-, v, -, he⟩ | ⟨hi, -⟩ | ⟨-, hread, he⟩
  · rw [he]
    trivial
  · exact absurd h (Nat.not_lt.2 hi)
  · rw [he]
    exact ⟨space, i, rfl, h, hread⟩

theorem stopsOnUnbuilt_logLookup (a : Byte) : StopsOnUnbuilt s (logLookup a s) :=
  (stopsOnUnbuilt_memRead a.isLt).andThen fun _ _ => trivial

theorem stopsOnUnbuilt_logarithm {a : Byte} (ha : a ≠ 0#8) : StopsOnUnbuilt s (logarithm a s) := by
  refine (stopsOnUnbuilt_logLookup a).andThen fun e he => ?_
  obtain ⟨v, hv, hentry⟩ := andThen_eq_next he
  cases e with
  | log l => trivial
  | undef => exact ⟨a, ha, rfl, hv.trans (by rw [LogEntry.eq_of_ofByte_eq_undef (Host.Outcome.next.inj hentry)])⟩

theorem logarithm_lt {a : Byte} {l : Nat} (h : logarithm a s = .next l) : l < 255 := by
  obtain ⟨e, he, hl⟩ := andThen_eq_next h
  obtain ⟨v, -, hentry⟩ := andThen_eq_next he
  cases e with
  | undef => simp at hl
  | log l' =>
    obtain rfl : l' = l := Host.Outcome.next.inj hl
    exact LogEntry.ofByte_log_lt (Host.Outcome.next.inj hentry)

theorem stopsOnUnbuilt_expLookup {k : Nat} (h : k < 510) : StopsOnUnbuilt s (expLookup k s) :=
  stopsOnUnbuilt_memRead (space := .exp) h

theorem stopsOnUnbuilt_multiply (a b : Byte) : StopsOnUnbuilt s (multiply a b s) := by
  by_cases hzero : a = 0#8 ∨ b = 0#8
  · rw [multiply_of_zero hzero]
    trivial
  · obtain ⟨ha, hb⟩ := not_or.1 hzero
    rw [multiply, if_neg hzero]
    exact (stopsOnUnbuilt_logarithm ha).andThen fun la hla => (stopsOnUnbuilt_logarithm hb).andThen fun lb hlb =>
      stopsOnUnbuilt_expLookup (sumIndex_lt (logarithm_lt hla) (logarithm_lt hlb))

theorem stopsOnUnbuilt_divide (a b : Byte) : StopsOnUnbuilt s (divide a b s) := by
  rw [divide]
  split
  · trivial
  · rename_i hb
    split
    · trivial
    · rename_i ha
      exact (stopsOnUnbuilt_logarithm ha).andThen fun la hla => (stopsOnUnbuilt_logarithm hb).andThen fun lb hlb =>
        (stopsOnUnbuilt_expLookup (diffIndex_lt (logarithm_lt hla) (logarithm_lt hlb))).andThen fun _ _ => trivial

theorem stopsOnUnbuilt_power (a : Byte) (n : Nat) : StopsOnUnbuilt s (power a n s) := by
  rw [power]
  split
  · trivial
  · split
    · trivial
    · rename_i ha
      exact (stopsOnUnbuilt_logarithm ha).andThen fun l _ => stopsOnUnbuilt_expLookup (powIndex_lt l n)

theorem stopsOnUnbuilt_resultOf (i : Instr) : StopsOnUnbuilt s (resultOf i s) := by
  cases i with
  | add a b => trivial
  | sub a b => trivial
  | mul a b => exact (stopsOnUnbuilt_multiply a b).andThen fun _ _ => trivial
  | div a b => exact stopsOnUnbuilt_divide a b
  | exp a n => exact (stopsOnUnbuilt_power a n).andThen fun _ _ => trivial
  | logrd a => exact (stopsOnUnbuilt_logLookup a).andThen fun _ _ => trivial
  | exprd k =>
    rw [resultOf]
    split
    · trivial
    · rename_i hk
      exact (stopsOnUnbuilt_expLookup (Nat.lt_of_not_le hk)).andThen fun _ _ => trivial
  | mulrd a b => exact (stopsOnUnbuilt_memRead (mulIndex_lt a b)).andThen fun _ _ => trivial
  | init => trivial
  | polychk p => trivial

theorem stopsOnUnbuilt_withTables {x : Access Response} (h : StopsOnUnbuilt s x) :
    StopsOnUnbuilt s (withTables s x) := by
  have hanswer : StopsOnUnbuilt s (answer x s) := h.andThen fun _ _ => trivial
  rw [withTables]
  split
  · trivial
  · exact hanswer
  · exact hanswer

end

theorem stopsOnUnbuilt_exec (i : Instr) (s : State) : StopsOnUnbuilt s (exec i s) := by
  cases htab : i.readsTables with
  | true =>
    rw [exec_of_readsTables htab]
    exact stopsOnUnbuilt_withTables (stopsOnUnbuilt_resultOf i)
  | false =>
    by_cases hi : i = .init
    · rw [hi, exec_init_eq]
      trivial
    · obtain ⟨r, -, hexec⟩ := exec_of_not_readsTables htab hi s
      rw [hexec]
      trivial

/-- Settles O38: every index a command computes exists, so a read can only find an entry that nothing has written; only
`UNDEF` is refused. -/
theorem commandsStopOnlyOnUnbuiltTables : Obligations.CommandsStopOnlyOnUnbuiltTables := by
  intro i s
  have hstops := stopsOnUnbuilt_exec i s
  refine ⟨fun f hf => ?_, fun r hr => ?_⟩
  · rwa [hf] at hstops
  · rwa [hr] at hstops

end Sys2Proof.Machine
